-- ==== Sys2Proof/Word.lean ====
section
/-! DEFINITION. The words and numbers the manual treats as such: bytes, grain words, addresses, and the index ranges of its tables. -/

namespace Sys2Proof

/-- One byte. -/
abbrev Byte := BitVec 8

/-- A grain word: 16 bytes, the unit of every channel transfer (00_scope.md, Figure 0-4). Byte 0 is the
least significant byte of the number: multi-byte fields are little-endian (00_scope.md, Conventions). -/
abbrev Word := BitVec 128

/-- A frame-store address. The manual writes every address as eight hexadecimal digits (Figure 0-1), and the
event records hold an address in four bytes (Figure 12-11). -/
abbrev Addr := BitVec 32

/-- A tributary index, 0 to 1023 (Figure 0-4). -/
abbrev TribId := Fin 1024

/-- A carrier index, 0 to 15 (Figure 0-4). -/
abbrev CarrierId := Fin 16

/-- A source: the requester number, 0 to 15, that an upstream request carries (Figure 0-4). -/
abbrev Source := Fin 16

/-- A payload position of a carrier, 0 to 239 (Figure 1-1). -/
abbrev Position := Fin 240

/-- The bytes of a fetched or encoded 128-byte command record (Figure 12-3), the byte of lowest address first. -/
abbrev Record := List Byte

end Sys2Proof
end

