-- ==== Sys2Proof/Syntax.lean ====
section
/-! DEFINITION. The commands of the block: one constructor of `Instr` for each row of spec/opcode_table.json, with its operands. -/

namespace Sys2Proof

/-- A U-side WRITE request (Figure 8-1): one data word of 16 bytes, with flag k of `enables` covering byte k. -/
structure UWrite where
  source : Source
  address : Addr
  data : Word
  enables : BitVec 16
  deriving DecidableEq, Repr

/-- A U-side READ request (Figure 8-1). The length is in words, as the request's 8-bit field carries it
(section 12.4: 0 to 255). -/
structure URead where
  source : Source
  tag : Byte
  address : Addr
  length : Byte
  deriving DecidableEq, Repr

/-- The result of a memory response (Figure 8-1). -/
inductive MemResult where
  | good
  | fault
  deriving DecidableEq, Repr

/-- The fields of a SET-LIMITS record (Figures 12-4 and 12-5), each at its full width (R182). -/
structure LimitFields where
  applyReadExpiry : Bool
  applyApplyLimit : Bool
  applySilence : Bool
  applyEnter : Bool
  applyLeave : Bool
  applyFill : Bool
  readExpiry : Byte
  applyLimit : Byte
  silence : Byte
  fill : Byte
  enter : BitVec 16
  leave : BitVec 16
  deriving DecidableEq, Repr

/-- The fields of a SET-NOTICE record (Figures 12-4 and 12-5). -/
structure NoticeFields where
  applyThreshold : Bool
  kind : Byte
  enable : Byte
  priority : Byte
  threshold : Byte
  deriving DecidableEq, Repr

/-- The fields of a SET-MONITOR record (Figure 12-5), each at its full width (R182). -/
structure MonitorFields where
  counter : Byte
  source : Byte
  carrierFilter : Bool
  tribFilter : Bool
  report : Bool
  note : BitVec 32
  carrierMatch : Byte
  carrierMask : Byte
  tribMatch : BitVec 16
  tribMask : BitVec 16
  count : BitVec 48
  deriving DecidableEq, Repr

/-- A command of the command ring with the fields of its record that it uses (R149, R182). -/
inductive Command where
  | attach (tributary : BitVec 16) (width targetLag fill : Byte)
  | detach (tributary : BitVec 16)
  | clearCounts (tributary : BitVec 16)
  | place (tributary : BitVec 16) (carrier : Byte) (pick scatter : Bool) (grains : List Byte)
  | regroom (tributary : BitVec 16) (carrier : Byte) (pick scatter : Bool) (grains : List Byte)
  | unplace (tributary : BitVec 16) (carrier : Byte)
  | carrierOn (carrier : Byte) (costLimit : BitVec 16)
  | carrierOff (carrier : Byte)
  | setLimits (fields : LimitFields)
  | setNotice (fields : NoticeFields)
  | mark (value : BitVec 32)
  | queryTributary (tributary : BitVec 16)
  | queryCarrier (carrier : Byte) (start : Byte)
  | setMonitor (fields : MonitorFields)
  | readMonitor (counter : Byte)
  | lockMonitor (counter : Byte)
  | clearTables
  /-- a record whose code names no command (R150) -/
  | badCode (code : Byte)
  deriving DecidableEq, Repr

/-- The steps of the block, one constructor for each row of spec/opcode_table.json.

The rows from ATTACH to BAD_CODE are the execution of a fetched command record: the event at which the outstanding
fetch hands the command processor a record of that command with these fields (R148 to R151). -/
inductive Instr where
  | hardwareReset
  | microsecondCountAdvance
  | tributaryRegionWrite (w : UWrite)
  | postWordWrite (w : UWrite)
  | takeWordWrite (w : UWrite)
  | passWrite (w : UWrite)
  | strayWrite (w : UWrite)
  | carrierWindowRead (r : URead)
  | passRead (r : URead)
  | heldReadReoffer
  | heldWriteReoffer
  | mSideRequestTaken
  | memoryResponse (tag : BitVec 16) (result : MemResult) (words : List Word)
  | responseDeparture
  | deadlineExpiry
  | subReadExpiry (entry : Fin 64)
  | abandonment (entry : Fin 64)
  | fetchExpiry
  | attach (tributary : BitVec 16) (width targetLag fill : Byte)
  | detach (tributary : BitVec 16)
  | clearCounts (tributary : BitVec 16)
  | place (tributary : BitVec 16) (carrier : Byte) (pick scatter : Bool) (grains : List Byte)
  | regroom (tributary : BitVec 16) (carrier : Byte) (pick scatter : Bool) (grains : List Byte)
  | unplace (tributary : BitVec 16) (carrier : Byte)
  | carrierOn (carrier : Byte) (costLimit : BitVec 16)
  | carrierOff (carrier : Byte)
  | setLimits (fields : LimitFields)
  | setNotice (fields : NoticeFields)
  | mark (value : BitVec 32)
  | queryTributary (tributary : BitVec 16)
  | queryCarrier (carrier : Byte) (start : Byte)
  | setMonitor (fields : MonitorFields)
  | readMonitor (counter : Byte)
  | lockMonitor (counter : Byte)
  | clearTables
  | badCode (code : Byte)
  deriving DecidableEq, Repr

/-- The row that executes a fetched command. -/
def Command.row : Command → Instr
  | .attach t w l f => .attach t w l f
  | .detach t => .detach t
  | .clearCounts t => .clearCounts t
  | .place t c p sc g => .place t c p sc g
  | .regroom t c p sc g => .regroom t c p sc g
  | .unplace t c => .unplace t c
  | .carrierOn c l => .carrierOn c l
  | .carrierOff c => .carrierOff c
  | .setLimits f => .setLimits f
  | .setNotice f => .setNotice f
  | .mark v => .mark v
  | .queryTributary t => .queryTributary t
  | .queryCarrier c p => .queryCarrier c p
  | .setMonitor f => .setMonitor f
  | .readMonitor n => .readMonitor n
  | .lockMonitor n => .lockMonitor n
  | .clearTables => .clearTables
  | .badCode b => .badCode b

end Sys2Proof
end

