-- ==== Sys2Proof/Machine/Address.lean ====
section
/-! DEFINITION. What the address of a request names: its region, the tributary, page and slot, the carrier, page field and position, the control words. -/

namespace Sys2Proof.Machine

/-- The regions of the frame store (Figure 0-1). -/
inductive Region where
  | tributary
  | window
  | control
  | other
  deriving DecidableEq, Repr

/-- The region of an address (R133). -/
def region (a : Addr) : Region :=
  if a.toNat < 0x0080_0000 then .tributary
  else if a.toNat < 0x0088_0000 then .window
  else if a.toNat < 0x0089_8000 then .control
  else .other

/-- The tributary an address of the tributary region names (Figure 3-1). -/
def tribOf (a : Addr) : TribId := Fin.ofNat 1024 (a.toNat / 0x2000)

/-- The page an address of the tributary region names (Figure 3-1). -/
def pageOf (a : Addr) : BitVec 3 := BitVec.ofNat 3 (a.toNat % 0x2000 / 0x400)

/-- The slot an address of the tributary region names (Figure 3-1). -/
def slotOf (a : Addr) : Nat := a.toNat % 0x400 / 0x10

/-- The address of a slot of a page of a tributary's buffer (R101). -/
def slotAddress (t : TribId) (page : BitVec 3) (slot : Nat) : Addr :=
  BitVec.ofNat 32 (t.val * 0x2000 + page.toNat * 0x400 + slot * 0x10)

/-- The carrier an address of the carrier window names (R93). -/
def windowCarrier (a : Addr) : CarrierId := Fin.ofNat 16 ((a.toNat - 0x0080_0000) / 0x8000)

/-- The page field of a carrier-window address (R93). -/
def windowPage (a : Addr) : BitVec 3 := BitVec.ofNat 3 (a.toNat % 0x8000 / 0x1000)

/-- The first position a carrier-window address names, 0 to 255 (R93). -/
def windowPosition (a : Addr) : Nat := a.toNat % 0x1000 / 0x10

/-- The post word (Figure 0-2). -/
def postWordAddr : Addr := 0x0088_0000#32
/-- The event take word (Figure 0-2). -/
def takeWordAddr : Addr := 0x0088_0030#32

/-- The address of command record n mod 256 (R148). -/
def recordAddr (n : BitVec 16) : Addr := BitVec.ofNat 32 (0x0088_8000 + n.toNat % 256 * 0x80)

/-- The address of event record n mod 1024 (R162). -/
def eventAddr (n : BitVec 16) : Addr := BitVec.ofNat 32 (0x0089_0000 + n.toNat % 1024 * 0x20)

/-- A well-formed READ: 1 to 8 words, 16-byte aligned, all its words within one aligned 128-byte block (R132). -/
def wellFormedRead (a : Addr) (length : Byte) : Bool :=
  1 ≤ length.toNat && length.toNat ≤ 8 && a.toNat % 16 == 0 && a.toNat % 128 / 16 + length.toNat ≤ 8

/-- The byte-enable flags of bytes 0 and 1 are both set (R141). -/
def countEnabled (w : UWrite) : Bool := w.enables.getLsbD 0 && w.enables.getLsbD 1

/-- A post-word write (R141). -/
def isPostWordWrite (w : UWrite) : Bool := w.address == postWordAddr && countEnabled w

/-- A take-word write (R141). -/
def isTakeWordWrite (w : UWrite) : Bool := w.address == takeWordAddr && countEnabled w

/-- The count a post-word or take-word write carries: bytes 0 and 1 (R141). -/
def writtenCount (w : UWrite) : BitVec 16 := w.data.extractLsb' 0 16

/-- A request of the upstream channel (Figure 8-1). -/
inductive URequest where
  | read (r : URead)
  | write (w : UWrite)
  deriving DecidableEq, Repr

/-- The row of the opcode table that a U-side request belongs to, by its kind and the region of its address
(R133, Figure 8-2) and, in the control region, by its address and flags (R141). -/
def requestRow : URequest → Instr
  | .read r => if region r.address = .window then .carrierWindowRead r else .passRead r
  | .write w =>
    match region w.address with
    | .tributary => .tributaryRegionWrite w
    | .window => .strayWrite w
    | _ =>
      if isPostWordWrite w then .postWordWrite w
      else if isTakeWordWrite w then .takeWordWrite w
      else .passWrite w

end Sys2Proof.Machine

namespace Sys2Proof

/-- A well-formed READ (R132). -/
def URead.wellFormed (r : URead) : Bool := Machine.wellFormedRead r.address r.length

/-- The read lies in the carrier window. -/
def URead.inWindow (r : URead) : Bool := Machine.region r.address = .window

/-- The positions of a carrier-window read: g to g + length − 1 (R93). -/
def URead.positions (r : URead) : List Nat := (List.range r.length.toNat).map (Machine.windowPosition r.address + ·)

end Sys2Proof
end

