-- ==== Sys2Proof/Machine/State.lean ====
section
/-! DEFINITION. The state of the part, block by block (Figure 0-3), as plain data; why a step can stop; the state right after hardware reset. -/

namespace Sys2Proof.Machine

/-! ## Tributary table (Chapter 2) -/

/-- The tributary states (section 2.3). -/
inductive TribState where
  | free
  | idle
  | active
  | silent
  | retiring
  deriving DecidableEq, Repr

/-- The drift states (section 5.4). -/
inductive Drift where
  | centred
  | low
  | high
  deriving DecidableEq, Repr

/-- A placement record (Figure 2-2). -/
structure Placement where
  carrier : CarrierId
  /-- ER, the egress page count -/
  er : BitVec 16
  /-- S, the smoothed lag scaled by 256 -/
  smoothed : Nat
  drift : Drift
  quiet : Nat
  /-- the IW snapshot -/
  snapshot : BitVec 16
  fresh : Bool
  restartPending : Bool
  deriving DecidableEq, Repr

/-- A tributary record (Figure 2-1). -/
structure Tributary where
  state : TribState
  width : Nat
  targetLag : Nat
  fill : Byte
  /-- IW, the ingress page count -/
  iw : BitVec 16
  repeatSlips : BitVec 16
  skipSlips : BitVec 16
  jumps : BitVec 16
  strays : BitVec 16
  inFlight : Nat
  /-- the placement list, in the order of application -/
  placements : List Placement
  deriving DecidableEq, Repr

/-- A tributary record after hardware reset (Figure 2-8). -/
def Tributary.reset : Tributary where
  state := .free
  width := 0
  targetLag := 0
  fill := 0
  iw := 0
  repeatSlips := 0
  skipSlips := 0
  jumps := 0
  strays := 0
  inFlight := 0
  placements := []

/-! ## Grooming map and carrier records (Chapters 1 and 4) -/

/-- A map entry that is not UNASSIGNED (Figure 1-1). -/
structure MapEntry where
  trib : TribId
  slot : Nat
  deriving DecidableEq, Repr

/-- The map entries of one carrier, positions 0 to 239; `none` is UNASSIGNED (R1). -/
abbrev CarrierMap := Vector (Option MapEntry) 240

/-- An indication byte (Figure 4-2). REPEAT is `repeated` and SKIP `skipped` here. -/
inductive Indication where
  | unassigned
  | normal
  | fresh
  | moved
  | repeated
  | skipped
  | alarm
  | restart
  deriving DecidableEq, Repr

/-- A carrier record (Figure 4-1) with the carrier's map entries (Figure 1-1). -/
structure Carrier where
  /-- ON; otherwise OFF -/
  on : Bool
  /-- cp, the current page; `none` is none -/
  page : Option (BitVec 3)
  cycles : BitVec 32
  generation : BitVec 16
  cost : Nat
  costLimit : Nat
  mapped : Nat
  pendingFlag : Bool
  indications : Vector Indication 240
  map : CarrierMap
  deriving DecidableEq, Repr

/-- A carrier after hardware reset (Figures 1-10 and 4-5). -/
def Carrier.reset : Carrier where
  on := false
  page := none
  cycles := 0
  generation := 0
  cost := 0
  costLimit := 240
  mapped := 0
  pendingFlag := false
  indications := Vector.replicate 240 .unassigned
  map := Vector.replicate 240 none

/-- The kinds of map change (Figure 1-1). -/
inductive ChangeKind where
  | place
  | regroom
  | unplace
  deriving DecidableEq, Repr

/-- The pending change (R16). The position list of an UNPLACE is empty. -/
structure PendingChange where
  kind : ChangeKind
  trib : TribId
  carrier : CarrierId
  positions : List Position
  deadline : BitVec 32
  deriving DecidableEq, Repr

/-! ## Translation unit (Chapter 6) -/

/-- Parent entry states (Figure 6-2); OPEN is `opened`. -/
inductive ParentState where
  | free
  | opened
  | complete
  deriving DecidableEq, Repr

/-- Classes of upstream read (Figure 6-1). -/
inductive ReadClass where
  | translated
  | overhead
  | offCarrier
  | pass
  | malformed
  deriving DecidableEq, Repr

/-- Response statuses, lowest first (R125). -/
inductive Status where
  | ok
  | alarm
  | late
  | error
  deriving DecidableEq, Repr

/-- A parent entry (Figure 6-2). -/
structure Parent where
  state : ParentState
  source : Source
  tag : Byte
  address : Addr
  length : Byte
  cls : ReadClass
  carrier : Option CarrierId
  /-- the word buffer, one item for each word of the read; `none` is a pending word -/
  words : List (Option Word)
  /-- the store beside the word buffer, for a malformed PASS read (R105) -/
  store : List Word
  status : Status
  outstanding : Nat
  late : Nat
  faults : Nat
  deriving DecidableEq, Repr

/-- A parent entry after hardware reset: FREE (R112). The manual gives the other fields of a FREE entry no value;
assumption log entry 2. -/
def Parent.reset : Parent where
  state := .free
  source := 0
  tag := 0
  address := 0
  length := 0
  cls := .translated
  carrier := none
  words := []
  store := []
  status := .ok
  outstanding := 0
  late := 0
  faults := 0

/-- Sub-read entry states (Figure 6-3). -/
inductive SubState where
  | free
  | issued
  | expired
  deriving DecidableEq, Repr

/-- A sub-read entry (Figure 6-3). -/
structure SubRead where
  state : SubState
  generation : BitVec 2
  parent : Fin 32
  first : Nat
  length : Nat
  trib : Option TribId
  carrier : Option CarrierId
  address : Addr
  issue : BitVec 32
  interval : Nat
  deriving DecidableEq, Repr

/-- A sub-read entry after hardware reset: FREE, generation 0 (R112). The manual gives the other fields of a FREE
entry no value; assumption log entry 2. -/
def SubRead.reset : SubRead where
  state := .free
  generation := 0
  parent := 0
  first := 0
  length := 0
  trib := none
  carrier := none
  address := 0
  issue := 0
  interval := 0

/-- The translation unit: the two tables, the sixteen source lists (R95) and the ready responses in the order in which
they became ready (R109). -/
structure Translation where
  parents : Vector Parent 32
  subReads : Vector SubRead 64
  lists : Vector (List (Fin 32)) 16
  ready : List (Fin 32)
  deriving DecidableEq, Repr

/-! ## Response unit (Chapter 7) -/

/-- The fetch entry (Figure 7-3). -/
structure FetchEntry where
  issued : Bool
  generation : BitVec 2
  issue : BitVec 32
  interval : Nat
  deriving DecidableEq, Repr

/-- The response unit: the microsecond count (R114), the epoch (R116) and the fetch entry (R128). -/
structure ResponseUnit where
  microseconds : BitVec 32
  epoch : Bool
  fetch : FetchEntry
  deriving DecidableEq, Repr

/-! ## Command processor (Chapter 9) -/

/-- Processor states (Figure 9-2). -/
inductive Phase where
  | idle
  | fetching
  | executing
  | waitingApply
  | replying
  deriving DecidableEq, Repr

/-- The limits (Figure 9-5). -/
structure Limits where
  readExpiry : Nat
  applyLimit : Nat
  silence : Nat
  enter : Nat
  leave : Nat
  unassignedFill : Byte
  deriving DecidableEq, Repr

/-- The command processor (Figure 9-1). -/
structure Processor where
  /-- P, the post count -/
  post : BitVec 16
  /-- D, the done count -/
  done : BitVec 16
  phase : Phase
  /-- the command in progress: the copy of the fetched record -/
  command : Option Record
  limits : Limits
  deriving DecidableEq, Repr

/-! ## Event writer (Chapter 10) -/

/-- The settings of one event kind (R160). -/
structure KindSetting where
  enabled : Bool
  priority : Nat
  deriving DecidableEq, Repr

/-- The event writer (Figure 10-2). The kind settings stand in the order of the rows of Figure 10-1. -/
structure EventWriter where
  /-- W, the write count -/
  written : BitVec 16
  /-- T, the take count -/
  taken : BitVec 16
  lost : Nat
  /-- the shadow list of priorities, oldest first -/
  shadow : List Nat
  kinds : Vector KindSetting 16
  threshold : Nat
  /-- the notice line: asserted -/
  notice : Bool
  deriving DecidableEq, Repr

/-! ## Monitor (Chapter 11) -/

/-- The occurrence kinds (Figure 11-2). -/
inductive OccKind where
  | carrierReads
  | subReads
  | fillWordsAlarm
  | fillWordsUnassigned
  | ingressPages
  | slips
  | lateSubreads
  | faultSubreads
  | lateArrivals
  | staleResponses
  | passReads
  | passWrites
  | cycleStarts
  | eventsLost
  | straySlotWrites
  | acceptWaits
  deriving DecidableEq, Repr

/-- A monitor counter (Figure 11-1). A source of `none` is NONE. -/
structure Counter where
  source : Option OccKind
  carrierFilter : Bool
  carrierMatch : BitVec 4
  carrierMask : BitVec 4
  tribFilter : Bool
  tribMatch : BitVec 10
  tribMask : BitVec 10
  report : Bool
  note : BitVec 32
  count : BitVec 48
  lock : Bool
  deriving DecidableEq, Repr

/-- A counter after hardware reset (R181). -/
def Counter.reset : Counter where
  source := none
  carrierFilter := false
  carrierMatch := 0
  carrierMask := 0
  tribFilter := false
  tribMatch := 0
  tribMask := 0
  report := false
  note := 0
  count := 0
  lock := false

/-! ## Channels (Chapter 8) -/

/-- Who made an M-side request (Figure 8-3): it forwards a U-side request, or is the part's own. -/
inductive Origin where
  | forwarded
  | own
  deriving DecidableEq, Repr

/-- An entry of the M-side queue (Figure 8-3). -/
inductive MRequest where
  | read (origin : Origin) (tag : BitVec 16) (address : Addr) (length : Byte)
  | write (origin : Origin) (source : Source) (address : Addr) (data : Word) (enables : BitVec 16)
  deriving DecidableEq, Repr

/-- A U-side READ response (Figure 8-1). -/
structure UResponse where
  source : Source
  tag : Byte
  status : Status
  words : List Word
  deriving DecidableEq, Repr

/-- A request that waits on the upstream channel, and whether its ACCEPT-WAITS occurrence has been reported (R98). -/
structure Held where
  request : URequest
  waitReported : Bool
  deriving DecidableEq, Repr

/-- The upstream channel at the part's side: the requests that have reached it and are not accepted, the one at the
head of the channel first (R134), and whether the head is due to be offered again (R99, R134). -/
structure Channel where
  waiting : List Held
  reofferDue : Bool
  deriving DecidableEq, Repr

/-- What has left the part: responses on the upstream side, requests the memory side has taken, each oldest first.
The model's own record of the part's outputs; assumption log entry 4. -/
structure Outputs where
  responses : List UResponse
  requests : List MRequest
  deriving DecidableEq, Repr

/-! ## The whole part -/

/-- The state of the part. -/
structure State where
  tributaries : Vector Tributary 1024
  carriers : Vector Carrier 16
  change : Option PendingChange
  translation : Translation
  response : ResponseUnit
  processor : Processor
  events : EventWriter
  monitor : Vector Counter 8
  mQueue : List MRequest
  channel : Channel
  outputs : Outputs
  /-- how many free orders have been drawn: the model's own counter, see `Config.orderKey` -/
  draws : Nat
  /-- the commands that are waiting, first in, first out: the host's queue -/
  pending : List Instr
  deriving DecidableEq, Repr

/-- No behaviour of the part stops it with a fault: the manual names no event that ends the part's work without a
next state. The type has no constructor. Safe: nothing is claimed of a stop. -/
inductive Fault where
  deriving DecidableEq, Repr

/-- Why a command is refused. -/
inductive Refusal where
  /-- Raised by `exec` for a row of the opcode table that has no meaning yet. Safe: nothing is claimed of the row. -/
  | notModelled (mnemonic : String)
  deriving DecidableEq, Repr

/-! ## After hardware reset -/

/-- A write of the part's own: one whole word, source 0, all sixteen byte-enable flags set (R143). -/
def ownWrite (address : Addr) (data : Word) : MRequest := .write .own 0 address data 0xFFFF#16

/-- The word of a control-word write: the count in bytes 0 and 1, zero in the rest (R143). -/
def controlWord (count : BitVec 16) : Word := count.setWidth 128

/-- The done word (Figure 0-2). -/
def doneWordAddr : Addr := 0x0088_0010#32
/-- The event write word (Figure 0-2). -/
def eventWordAddr : Addr := 0x0088_0020#32

/-- The limits' defaults (Figure 9-5). -/
def Limits.reset : Limits where
  readExpiry := 6
  applyLimit := 3
  silence := 4
  enter := 384
  leave := 128
  unassignedFill := 0

/-- Default priorities, every kind enabled, in the order of the rows of Figure 10-1. -/
def defaultKinds : Vector KindSetting 16 :=
  #v[⟨true, 5⟩, ⟨true, 4⟩, ⟨true, 3⟩, ⟨true, 2⟩, ⟨true, 2⟩, ⟨true, 1⟩, ⟨true, 3⟩, ⟨true, 1⟩,
     ⟨true, 5⟩, ⟨true, 6⟩, ⟨true, 5⟩, ⟨true, 4⟩, ⟨true, 3⟩, ⟨true, 6⟩, ⟨true, 3⟩, ⟨true, 0⟩]

/-- The event writer after hardware reset (R171). -/
def EventWriter.reset : EventWriter where
  written := 0
  taken := 0
  lost := 0
  shadow := []
  kinds := defaultKinds
  threshold := 0
  notice := false

/-- The command processor after hardware reset (R159). -/
def Processor.reset : Processor where
  post := 0
  done := 0
  phase := .idle
  command := none
  limits := .reset

/-- The response unit after hardware reset, with a given epoch (R130, Figure 7-3). -/
def ResponseUnit.resetWith (epoch : Bool) : ResponseUnit where
  microseconds := 0
  epoch := epoch
  fetch := { issued := false, generation := 0, issue := 0, interval := 0 }

/-- The translation unit after hardware reset (R112). -/
def Translation.reset : Translation where
  parents := Vector.replicate 32 .reset
  subReads := Vector.replicate 64 .reset
  lists := Vector.replicate 16 []
  ready := []

/-- The part right after hardware reset (R25, R41, R70, R91, R112, R130, R144, R159, R171, R181). The M-side queue holds
the two writes that reset appends (R143). The epoch may be either after the first reset that follows power-up (R130):
the model takes 0, assumption log entry 1. -/
def State.reset : State where
  tributaries := Vector.replicate 1024 .reset
  carriers := Vector.replicate 16 .reset
  change := none
  translation := .reset
  response := .resetWith false
  processor := .reset
  events := .reset
  monitor := Vector.replicate 8 .reset
  mQueue := [ownWrite doneWordAddr (controlWord 0), ownWrite eventWordAddr (controlWord 0)]
  channel := { waiting := [], reofferDue := false }
  outputs := { responses := [], requests := [] }
  draws := 0
  pending := []

end Sys2Proof.Machine
end

