-- ==== Sys2Proof/Machine/Reset.lean ====
section
/-! DEFINITION. Hardware reset of the running part, and the meaning of its row. -/

namespace Sys2Proof.Machine

/-- The upstream channel across a hardware reset: it is no part of the part's own state, so its requests stay; a request
held at its head is due to be offered as a new request (R112, R144). -/
def Channel.acrossReset (c : Channel) : Channel where
  waiting := c.waiting.map fun h => { h with waitReported := false }
  reofferDue := !c.waiting.isEmpty

/-- Hardware reset: every block returns to its reset state and the epoch is inverted (R25, R41, R54, R70, R91, R112, R130,
R144, R159, R171, R181). What the part does not hold stays: the requests of the upstream channel, what has left the part,
and the model's own counter and queue. -/
def State.hardwareReset (s : State) : State :=
  { State.reset with
    response := .resetWith !s.response.epoch
    channel := s.channel.acrossReset
    outputs := s.outputs
    draws := s.draws
    pending := s.pending }

/-- HARDWARE_RESET (R41, R130, R144). -/
def execHardwareReset (s : State) : Host.Outcome State Fault Refusal := .next s.hardwareReset

end Sys2Proof.Machine
end

