-- ==== Sys2Proof/Config.lean ====
section
/-! DEFINITION. What the manual leaves open: the one free value of the model. -/

namespace Sys2Proof

/-- Where one event makes several raisings and the manual says that they may stand in the event ring in either
order (R62: the events of different placements at step 4 of a cycle start), or says nothing of their order (R175,
R177: several counters that wrap at one occurrence), the order is FREE: it is the order of these keys, smallest
first, which nothing constrains. The first argument counts the choices made (`Machine.State.draws`), the second is
the tributary's or the counter's number. Assumption log entry 3. -/
opaque Config.orderKey : Nat → Nat → Nat

end Sys2Proof
end

