-- ==== Sys2Proof/Machine/Flags.lean ====
section
/-! DEFINITION. The flag-like values the manual computes: saturating counts, parent status, the notice line, the filters of a counter, the indication byte of a position. -/

namespace Sys2Proof.Machine

/-- A saturating count raised by 1: at 65535 it stays (R28). -/
def saturate (n : BitVec 16) : BitVec 16 := if n = 0xFFFF#16 then n else n + 1

/-- The lost count raised by 1: at 255 it stays (R165). -/
def raiseLost (n : Nat) : Nat := if n < 255 then n + 1 else n

/-- The order of the statuses: OK, ALARM, LATE, ERROR (R125). -/
def Status.rank : Status → Nat
  | .ok => 0
  | .alarm => 1
  | .late => 2
  | .error => 3

/-- A parent's status rises to the higher of two and never falls (R107, R125). -/
def Status.rise (present called : Status) : Status :=
  if present.rank < called.rank then called else present

/-- The notice line's level: asserted while the shadow list holds a priority greater than the threshold (R168). -/
def noticeLevel (shadow : List Nat) (threshold : Nat) : Bool := shadow.any (threshold < ·)

/-- A filter of a counter: when it is enabled, the occurrence must carry a number, and the number's masked bits equal
the match (R175). -/
def filterPasses (enabled : Bool) (number : Option (BitVec n)) (mask matched : BitVec n) : Bool :=
  !enabled || match number with
    | none => false
    | some x => x &&& mask == matched

/-- What one evaluation of a placement comes to (R88). -/
inductive Outcome where
  | fresh
  | silentHold
  | restart
  | silenced
  | repeated
  | skipped
  | normal
  deriving DecidableEq, Repr

/-- The indication byte of a mapped position at step 5 of a cycle start, by the precedence ALARM; REPEAT or SKIP;
RESTART; FRESH or MOVED; NORMAL (R65, R66). `alarm` is whether ALARM applies after step 4, `outcome` the outcome of the
placement's evaluation at step 4, `applied` FRESH or MOVED where step 3 gives the position one of them. -/
def stepFiveIndication (alarm : Bool) (outcome : Option Outcome) (applied : Option Indication) : Indication :=
  if alarm then .alarm
  else match outcome with
    | some .repeated => .repeated
    | some .skipped => .skipped
    | some .restart => .restart
    | _ => applied.getD .normal

end Sys2Proof.Machine
end

