-- ==== Sys2Proof/Machine/Bytes.lean ====
section
/-! DEFINITION. Byte order: bytes and words, little-endian numbers, fields of a record (00_scope.md, Conventions; Chapter 12). -/

namespace Sys2Proof.Machine

/-- Byte k of a grain word; byte 0 is the lowest address. -/
def byteOf (w : Word) (k : Nat) : Byte := w.extractLsb' (8 * k) 8

/-- The number that bytes hold, little-endian. -/
def natOfBytes : List Byte → Nat
  | [] => 0
  | b :: bs => b.toNat + 256 * natOfBytes bs

/-- The `k` low bytes of a number, little-endian. -/
def leBytes : Nat → Nat → List Byte
  | 0, _ => []
  | k + 1, n => BitVec.ofNat 8 n :: leBytes k (n / 256)

/-- One byte that holds a number. -/
def byte (n : Nat) : Byte := BitVec.ofNat 8 n

/-- A bit as a byte: 1 set, 0 clear. -/
def byteOfBool (b : Bool) : Byte := if b then 1 else 0

/-- The first `n` bytes of a list, zero bytes standing for those it lacks. -/
def padTo (n : Nat) (bs : List Byte) : List Byte :=
  bs.take n ++ List.replicate (n - bs.length) 0

/-- The grain word that 16 bytes make. -/
def wordOfBytes (bs : List Byte) : Word := BitVec.ofNat 128 (natOfBytes bs)

/-- The sixteen bytes of a grain word. -/
def bytesOfWord (w : Word) : List Byte := (List.range 16).map (byteOf w)

/-- `n` grain words out of a list of bytes, sixteen bytes each. -/
def wordsOfBytes : Nat → List Byte → List Word
  | 0, _ => []
  | n + 1, bs => wordOfBytes (bs.take 16) :: wordsOfBytes n (bs.drop 16)

/-- A word of either fill kind: one repeated byte (00_scope.md, Fill). -/
def fillWord (b : Byte) : Word := wordOfBytes (List.replicate 16 b)

/-- Byte i of a command record. -/
def recByte (r : Record) (i : Nat) : Byte := r.getD i 0

/-- The `k` bytes of a command record from byte i on, as a number. -/
def recNat (r : Record) (i k : Nat) : Nat := natOfBytes ((List.range k).map fun j => recByte r (i + j))

/-- Flag bit i of a command record: a bit of its byte 1 (Figure 12-4). -/
def recFlag (r : Record) (i : Nat) : Bool := (recByte r 1).getLsbD i

/-- The command record that the first eight words of a fetch answer carry (R129). -/
def recordOfWords (ws : List Word) : Record := (ws.take 8).flatMap bytesOfWord

end Sys2Proof.Machine
end

