-- ==== Sys2Proof/Machine/Operands.lean ====
section
/-! DEFINITION. The operand forms: range tests and clamps of record fields (R150, R182), the M-tag, the codes of Chapter 12, event records and reply data (R183). -/

namespace Sys2Proof.Machine

/-! ## Record fields -/

/-- A tributary field in range, 0 to 1023 (R150). -/
def toTrib? (v : BitVec 16) : Option TribId :=
  if h : v.toNat < 1024 then some ⟨v.toNat, h⟩ else none

/-- A carrier field in range, 0 to 15 (R150). -/
def toCarrier? (v : Byte) : Option CarrierId :=
  if h : v.toNat < 16 then some ⟨v.toNat, h⟩ else none

/-- A monitor counter number in range, 0 to 7 (R150). -/
def toCounter? (v : Byte) : Option (Fin 8) :=
  if h : v.toNat < 8 then some ⟨v.toNat, h⟩ else none

/-- A payload position, 0 to 239. -/
def toPosition? (n : Nat) : Option Position :=
  if h : n < 240 then some ⟨n, h⟩ else none

/-- A value brought to the nearer end of a range (00_scope.md, Clamping). -/
def clamp (lo hi n : Nat) : Nat := max lo (min hi n)

/-- The position list of a map command with PICK clear: the first `w` bytes of the grain list field, each at most 239
and all distinct (R8). -/
def listedPositions? (w : Nat) (grains : List Byte) : Option (List Position) :=
  match (padTo w grains).mapM fun b => toPosition? b.toNat with
  | some ps => if ps.Nodup then some ps else none
  | none => none

/-! ## The M-tag (Figure 12-2) -/

/-- The M-tag of an M-side read: entry number, generation, pool (1 fetch) and epoch. -/
def mTag (entry : Nat) (generation : BitVec 2) (fetchPool epoch : Bool) : BitVec 16 :=
  BitVec.ofNat 16
    (entry % 256 + generation.toNat * 0x100 + (if fetchPool then 0x400 else 0) + (if epoch then 0x800 else 0))

/-- Bits 0 to 7: the entry number. -/
def tagEntry (tag : BitVec 16) : Nat := (tag.extractLsb' 0 8).toNat
/-- Bits 8 to 9: the generation. -/
def tagGeneration (tag : BitVec 16) : BitVec 2 := tag.extractLsb' 8 2
/-- Bit 10: the pool, set for the fetch pool. -/
def tagFetchPool (tag : BitVec 16) : Bool := tag.getLsbD 10
/-- Bit 11: the epoch. -/
def tagEpoch (tag : BitVec 16) : Bool := tag.getLsbD 11

/-! ## Codes -/

/-- Tributary state bytes (section 12.3). -/
def TribState.code : TribState → Byte
  | .free => 0
  | .idle => 1
  | .active => 2
  | .silent => 3
  | .retiring => 4

/-- Drift state bytes (Figure 12-10). -/
def Drift.code : Drift → Byte
  | .centred => 0
  | .low => 1
  | .high => 2

/-- Indication byte values (Figure 4-2). -/
def Indication.code : Indication → Byte
  | .unassigned => 0
  | .normal => 1
  | .fresh => 2
  | .moved => 3
  | .repeated => 4
  | .skipped => 5
  | .alarm => 6
  | .restart => 7

/-- Response statuses as READ-FAULT's detail gives them, 2 LATE and 3 ERROR (Figure 12-11). -/
def Status.code : Status → Byte
  | .ok => 0
  | .alarm => 1
  | .late => 2
  | .error => 3

/-- Completion codes (Figure 12-7). -/
inductive Completion where
  | done
  | appliedLate
  | badCode
  | badField
  | wrongState
  | grainTaken
  | noRoom
  | costLimit
  | locked
  | fetchError
  deriving DecidableEq, Repr

/-- The value of a completion code (Figure 12-7). -/
def Completion.code : Completion → Byte
  | .done => 0x00
  | .appliedLate => 0x01
  | .badCode => 0x10
  | .badField => 0x11
  | .wrongState => 0x12
  | .grainTaken => 0x13
  | .noRoom => 0x14
  | .costLimit => 0x15
  | .locked => 0x16
  | .fetchError => 0x20

/-- Monitor source codes (Figure 12-8). -/
def OccKind.code : OccKind → Byte
  | .carrierReads => 0x01
  | .subReads => 0x02
  | .fillWordsAlarm => 0x03
  | .fillWordsUnassigned => 0x04
  | .ingressPages => 0x05
  | .slips => 0x06
  | .lateSubreads => 0x07
  | .faultSubreads => 0x08
  | .lateArrivals => 0x09
  | .staleResponses => 0x0A
  | .passReads => 0x0B
  | .passWrites => 0x0C
  | .cycleStarts => 0x0D
  | .eventsLost => 0x0E
  | .straySlotWrites => 0x0F
  | .acceptWaits => 0x10

/-- The monitor source of a counter as a byte: 0x00 is NONE (Figure 12-8). -/
def sourceCode : Option OccKind → Byte
  | none => 0x00
  | some k => k.code

/-- The sixteen occurrence kinds (Figure 11-2). -/
def OccKind.all : List OccKind :=
  [.carrierReads, .subReads, .fillWordsAlarm, .fillWordsUnassigned, .ingressPages, .slips, .lateSubreads,
   .faultSubreads, .lateArrivals, .staleResponses, .passReads, .passWrites, .cycleStarts, .eventsLost,
   .straySlotWrites, .acceptWaits]

/-- The source a source code names: `some none` is NONE, `none` an unknown code (R178, Figure 12-8). -/
def toSource? (b : Byte) : Option (Option OccKind) :=
  if b = 0x00 then some none
  else match OccKind.all.find? fun k => k.code == b with
    | some k => some (some k)
    | none => none

/-- The event kinds (Figure 10-1). -/
inductive EventKind where
  | tribSilent
  | tribRestored
  | slip
  | lagLow
  | lagHigh
  | lagCentred
  | ingressJump
  | tribRetired
  | readFault
  | readAbandoned
  | malformedRequest
  | strayWrite
  | carrierPageJump
  | postRejected
  | monitorWrap
  | mark
  deriving DecidableEq, Repr

/-- The place of a kind among the rows of Figure 10-1. -/
def EventKind.index : EventKind → Fin 16
  | .tribSilent => 0
  | .tribRestored => 1
  | .slip => 2
  | .lagLow => 3
  | .lagHigh => 4
  | .lagCentred => 5
  | .ingressJump => 6
  | .tribRetired => 7
  | .readFault => 8
  | .readAbandoned => 9
  | .malformedRequest => 10
  | .strayWrite => 11
  | .carrierPageJump => 12
  | .postRejected => 13
  | .monitorWrap => 14
  | .mark => 15

/-- Event kind codes (Figure 10-1). -/
def EventKind.code : EventKind → Byte
  | .tribSilent => 0x01
  | .tribRestored => 0x02
  | .slip => 0x03
  | .lagLow => 0x04
  | .lagHigh => 0x05
  | .lagCentred => 0x06
  | .ingressJump => 0x07
  | .tribRetired => 0x08
  | .readFault => 0x10
  | .readAbandoned => 0x11
  | .malformedRequest => 0x12
  | .strayWrite => 0x13
  | .carrierPageJump => 0x14
  | .postRejected => 0x15
  | .monitorWrap => 0x20
  | .mark => 0x30

/-- The sixteen event kinds, in the order of the rows of Figure 10-1. -/
def EventKind.all : List EventKind :=
  [.tribSilent, .tribRestored, .slip, .lagLow, .lagHigh, .lagCentred, .ingressJump, .tribRetired, .readFault,
   .readAbandoned, .malformedRequest, .strayWrite, .carrierPageJump, .postRejected, .monitorWrap, .mark]

/-- The kind a kind code names (R170). -/
def toKind? (b : Byte) : Option EventKind := EventKind.all.find? fun k => k.code == b

/-! ## Events (Figure 10-3) -/

/-- An event as its raising rule gives it: what it names and its detail fields. -/
inductive Event where
  | tribSilent (trib : TribId) (carrier : CarrierId) (iw er : BitVec 16) (quiet : Nat)
  | tribRestored (trib : TribId) (before after : BitVec 16) (marked : Nat)
  | slip (trib : TribId) (carrier : CarrierId) (size : Int) (lag : Nat)
  | lagLow (trib : TribId) (carrier : CarrierId) (smoothed target lag : Nat)
  | lagHigh (trib : TribId) (carrier : CarrierId) (smoothed target lag : Nat)
  | lagCentred (trib : TribId) (carrier : CarrierId) (smoothed target lag : Nat)
  | ingressJump (trib : TribId) (page skipped : BitVec 3) (before : BitVec 16)
  | tribRetired (trib : TribId)
  | readFault (carrier : Option CarrierId) (source : Source) (tag : Byte) (status : Status) (late faults : Nat)
      (address : Addr)
  | readAbandoned (carrier : Option CarrierId) (trib : Option TribId) (entry : Fin 64) (address : Addr)
  | malformedRequest (carrier : CarrierId) (source : Source) (tag length : Byte) (address : Addr)
  | strayWrite (carrier : CarrierId) (source : Source) (address : Addr)
  | carrierPageJump (carrier : CarrierId) (old new passed : BitVec 3)
  | postRejected (count done post : BitVec 16)
  | monitorWrap (counter : Fin 8) (note : BitVec 32)
  | mark (value : BitVec 32)
  deriving DecidableEq, Repr

/-- The kind of an event. -/
def Event.kind : Event → EventKind
  | .tribSilent .. => .tribSilent
  | .tribRestored .. => .tribRestored
  | .slip .. => .slip
  | .lagLow .. => .lagLow
  | .lagHigh .. => .lagHigh
  | .lagCentred .. => .lagCentred
  | .ingressJump .. => .ingressJump
  | .tribRetired .. => .tribRetired
  | .readFault .. => .readFault
  | .readAbandoned .. => .readAbandoned
  | .malformedRequest .. => .malformedRequest
  | .strayWrite .. => .strayWrite
  | .carrierPageJump .. => .carrierPageJump
  | .postRejected .. => .postRejected
  | .monitorWrap .. => .monitorWrap
  | .mark .. => .mark

/-- The carrier an event names, or none (Figure 10-3). -/
def Event.carrier : Event → Option CarrierId
  | .tribSilent _ c _ _ _ => some c
  | .slip _ c _ _ => some c
  | .lagLow _ c _ _ _ => some c
  | .lagHigh _ c _ _ _ => some c
  | .lagCentred _ c _ _ _ => some c
  | .readFault c _ _ _ _ _ _ => c
  | .readAbandoned c _ _ _ => c
  | .malformedRequest c _ _ _ _ => some c
  | .strayWrite c _ _ => some c
  | .carrierPageJump c _ _ _ => some c
  | _ => none

/-- The tributary an event names, or none (Figure 10-3). -/
def Event.trib : Event → Option TribId
  | .tribSilent t _ _ _ _ => some t
  | .tribRestored t _ _ _ => some t
  | .slip t _ _ _ => some t
  | .lagLow t _ _ _ _ => some t
  | .lagHigh t _ _ _ _ => some t
  | .lagCentred t _ _ _ _ => some t
  | .ingressJump t _ _ _ => some t
  | .tribRetired t => some t
  | .readAbandoned _ t _ _ => t
  | _ => none

/-- The detail bytes of an event, from byte 12 of its record on (Figure 12-11). -/
def Event.detail : Event → List Byte
  | .tribSilent _ _ iw er quiet => leBytes 2 iw.toNat ++ leBytes 2 er.toNat ++ [byte quiet]
  | .tribRestored _ before after marked => leBytes 2 before.toNat ++ leBytes 2 after.toNat ++ [byte marked]
  | .slip _ _ size lag => leBytes 4 (BitVec.ofInt 32 size).toNat ++ leBytes 2 lag
  | .lagLow _ _ smoothed target lag => leBytes 2 smoothed ++ [byte target, byte lag]
  | .lagHigh _ _ smoothed target lag => leBytes 2 smoothed ++ [byte target, byte lag]
  | .lagCentred _ _ smoothed target lag => leBytes 2 smoothed ++ [byte target, byte lag]
  | .ingressJump _ page skipped before => [byte page.toNat, byte skipped.toNat] ++ leBytes 2 before.toNat
  | .tribRetired _ => []
  | .readFault _ source tag status late faults address =>
    [byte source.val, tag, status.code, byte late, byte faults, 0, 0, 0] ++ leBytes 4 address.toNat
  | .readAbandoned _ _ entry address => [byte entry.val, 0, 0, 0] ++ leBytes 4 address.toNat
  | .malformedRequest _ source tag length address =>
    [byte source.val, tag, length, 0] ++ leBytes 4 address.toNat
  | .strayWrite _ source address => [byte source.val, 0, 0, 0] ++ leBytes 4 address.toNat
  | .carrierPageJump _ old new passed => [byte old.toNat, byte new.toNat, byte passed.toNat]
  | .postRejected count done post => leBytes 2 count.toNat ++ leBytes 2 done.toNat ++ leBytes 2 post.toNat
  | .monitorWrap counter note => [byte counter.val, 0, 0, 0] ++ leBytes 4 note.toNat
  | .mark value => leBytes 4 value.toNat

/-- A carrier as a byte, 0xFF for none (Figure 12-11). -/
def carrierByte : Option CarrierId → Byte
  | none => 0xFF
  | some c => byte c.val

/-- A tributary as two bytes, 0xFFFF for none (Figure 12-11). -/
def tribBytes : Option TribId → List Byte
  | none => [0xFF, 0xFF]
  | some t => leBytes 2 t.val

/-- The 32 bytes of an event record (R163, Figure 12-11). -/
def Event.bytes (e : Event) (priority lost : Nat) (stamp : BitVec 32) : List Byte :=
  [e.kind.code, byte priority, byte lost, carrierByte e.carrier] ++ tribBytes e.trib ++ [0, 0]
    ++ leBytes 4 stamp.toNat ++ padTo 20 e.detail

/-! ## Overhead words and reply data -/

/-- The current page as a byte, 0xFF when it is none (Figures 12-9 and 12-12). -/
def pageByte : Option (BitVec 3) → Byte
  | none => 0xFF
  | some p => byte p.toNat

/-- The sixteen bytes of overhead word 240 (Figure 12-12). -/
def overheadBytes (c : Carrier) : List Byte :=
  leBytes 4 c.cycles.toNat ++ leBytes 2 c.generation.toNat
    ++ [pageByte c.page, byteOfBool c.on, byte c.mapped, byte c.cost, byte c.costLimit, byteOfBool c.pendingFlag,
        0, 0, 0, 0]

/-- The overhead word at a position from 240 on: the carrier record, then the indication bytes, sixteen to a word
(Figure 4-3, section 12.5). -/
def overheadWord (c : Carrier) (position : Nat) : Word :=
  if position = 240 then wordOfBytes (overheadBytes c)
  else wordOfBytes (((c.indications.toList.drop (16 * (position - 241))).take 16).map Indication.code)

/-- A placement entry of QUERY-TRIBUTARY, absent with carrier 0xFF (Figure 12-10, R183). -/
def placementBytes : Option Placement → List Byte
  | none => [0xFF, 0, 0, 0, 0, 0, 0, 0]
  | some p =>
    [byte p.carrier.val, flagBits p.fresh p.restartPending, p.drift.code, byte p.quiet]
      ++ leBytes 2 p.er.toNat ++ leBytes 2 p.smoothed
where
  /-- bit 0 fresh mark, bit 1 restart-pending mark -/
  flagBits (fresh restart : Bool) : Byte := byte ((if fresh then 1 else 0) + (if restart then 2 else 0))

/-- The four saturating counts as CLEAR-COUNTS and QUERY-TRIBUTARY report them (Figure 12-9). -/
def countBytes (tr : Tributary) : List Byte :=
  leBytes 2 tr.repeatSlips.toNat ++ leBytes 2 tr.skipSlips.toNat ++ leBytes 2 tr.jumps.toNat
    ++ leBytes 2 tr.strays.toNat

/-- An entry of QUERY-CARRIER: tributary and slot, 0xFFFF and 0xFF for none (section 12.3). -/
def mapEntryBytes : Option MapEntry → List Byte
  | none => [0xFF, 0xFF, 0xFF]
  | some e => leBytes 2 e.trib.val ++ [byte e.slot]

/-- A monitor counter as the monitor commands report it (Figure 12-9). -/
def counterBytes (number : Fin 8) (k : Counter) : List Byte :=
  [byte number.val, sourceCode k.source,
   byte ((if k.carrierFilter then 1 else 0) + (if k.tribFilter then 2 else 0) + (if k.report then 4 else 0)
     + (if k.lock then 8 else 0)),
   byte k.carrierMatch.toNat, byte k.carrierMask.toNat] ++ leBytes 2 k.tribMatch.toNat ++ leBytes 2 k.tribMask.toNat
    ++ [0, 0, 0] ++ leBytes 4 k.note.toNat ++ leBytes 6 k.count.toNat

/-- Words 5 to 7 of a record: the completion code, three zero bytes and the reply data, zero to byte 127
(R151, R183). -/
def replyWords (code : Completion) (data : List Byte) : List Word :=
  wordsOfBytes 3 ([code.code, 0, 0, 0] ++ padTo 44 data)

/-- Words 1 to 4 of a record: the chosen list of an admitted PICK command, zero in the rest (R11, R183). -/
def grainWords (positions : List Position) : List Word :=
  wordsOfBytes 4 (padTo 64 (positions.map fun p => byte p.val))

end Sys2Proof.Machine
end

