-- ==== Sys2Proof/Machine/Ops.lean ====
section
/-! DEFINITION. The named operations over the state: the tables' entries, the M-side queue, the monitor, the event writer, the fetch, and the completion of a command. -/

namespace Sys2Proof.Machine

/-! ## Tables -/

/-- Every entry of a table through a function. -/
def mapTable (f : α → β) (v : Vector α n) : Vector β n :=
  ⟨(v.toList.map f).toArray, by simp⟩

/-- A table from its entries. -/
def tabulate (f : Fin n → α) : Vector α n :=
  ⟨((List.finRange n).map f).toArray, by simp⟩

/-- The lowest-numbered entry of a table that satisfies a test. -/
def lowest? (p : α → Bool) (v : Vector α n) : Option (Fin n) := (List.finRange n).find? fun i => p v[i]

/-- How many entries of a table satisfy a test. -/
def countTable (p : α → Bool) (v : Vector α n) : Nat := v.toList.countP p

/-- The record of tributary t. -/
def State.trib (s : State) (t : TribId) : Tributary := s.tributaries[t]

/-- The state with the record of tributary t replaced. -/
def State.setTrib (s : State) (t : TribId) (r : Tributary) : State :=
  { s with tributaries := s.tributaries.set t r }

/-- The record of carrier c. -/
def State.carrier (s : State) (c : CarrierId) : Carrier := s.carriers[c]

/-- The state with the record of carrier c replaced. -/
def State.setCarrier (s : State) (c : CarrierId) (r : Carrier) : State :=
  { s with carriers := s.carriers.set c r }

/-- Parent entry i. -/
def State.parent (s : State) (i : Fin 32) : Parent := s.translation.parents[i]

/-- The state with parent entry i replaced. -/
def State.setParent (s : State) (i : Fin 32) (r : Parent) : State :=
  { s with translation := { s.translation with parents := s.translation.parents.set i r } }

/-- Sub-read entry i. -/
def State.sub (s : State) (i : Fin 64) : SubRead := s.translation.subReads[i]

/-- The state with sub-read entry i replaced. -/
def State.setSub (s : State) (i : Fin 64) (r : SubRead) : State :=
  { s with translation := { s.translation with subReads := s.translation.subReads.set i r } }

/-- Requests appended at the end of the M-side queue (R135). -/
def State.enqueue (s : State) (rs : List MRequest) : State := { s with mQueue := s.mQueue ++ rs }

/-- Monitor counter k. -/
def State.counter (s : State) (k : Fin 8) : Counter := s.monitor[k]

/-- The state with monitor counter k replaced. -/
def State.setCounter (s : State) (k : Fin 8) (r : Counter) : State := { s with monitor := s.monitor.set k r }

/-- The placement of a tributary in a carrier: at most one (R2). -/
def Tributary.placementIn (tr : Tributary) (c : CarrierId) : Option Placement :=
  tr.placements.find? fun p => p.carrier = c

/-! ## Free orders -/

/-- One item into a list that stands in the order of its keys. -/
def insertByKey (key : α → Nat) (x : α) : List α → List α
  | [] => [x]
  | y :: ys => if key x ≤ key y then x :: y :: ys else y :: insertByKey key x ys

/-- A list in the order of its keys. With the free keys of `Config.orderKey` this is any order at all; a list of one
item has only one order, and no key is looked at. -/
def orderByKey (key : α → Nat) : List α → List α
  | [] => []
  | x :: xs => insertByKey key x (orderByKey key xs)

/-- A free order is drawn only where there is a choice. -/
def drawn (n draws : Nat) : Nat := if n ≤ 1 then draws else draws + 1

/-! ## The monitor (Chapter 11) -/

/-- An occurrence: its kind and amount, and the carrier and tributary it carries (Figure 11-2). -/
structure Occurrence where
  kind : OccKind
  amount : Nat
  carrier : Option CarrierId
  trib : Option TribId
  deriving DecidableEq, Repr

/-- A counter counts an occurrence when its source is the occurrence's kind and both filters pass (R175). -/
def Counter.admits (k : Counter) (o : Occurrence) : Bool :=
  k.source == some o.kind
    && filterPasses k.carrierFilter (o.carrier.map fun c => BitVec.ofNat 4 c.val) k.carrierMask k.carrierMatch
    && filterPasses k.tribFilter (o.trib.map fun t => BitVec.ofNat 10 t.val) k.tribMask k.tribMatch

/-- A counter after an occurrence: (count + amount) mod 2^48 when it counts it (R175). -/
def Counter.after (k : Counter) (o : Occurrence) : Counter :=
  if k.admits o then { k with count := k.count + BitVec.ofNat 48 o.amount } else k

/-- Whether an occurrence wraps a counter whose report enable is set, so that MONITOR-WRAP is raised (R177). -/
def Counter.reports (k : Counter) (o : Occurrence) : Bool :=
  k.admits o && k.report && 2 ^ 48 ≤ k.count.toNat + o.amount

/-- The MONITOR-WRAP events that an occurrence raises, in a free order where several counters wrap at once (R177). -/
def wrapEvents (draws : Nat) (monitor : Vector Counter 8) (o : Occurrence) : List Event :=
  (orderByKey (fun k : Fin 8 => Config.orderKey draws k.val)
    ((List.finRange 8).filter fun k => monitor[k].reports o)).map fun k => .monitorWrap k monitor[k].note

/-- An occurrence taken by the eight counters, each on its own (R174); the reports are still to be raised. -/
def State.countOccurrence (s : State) (o : Occurrence) : State :=
  { s with
    monitor := mapTable (·.after o) s.monitor
    draws := drawn (wrapEvents s.draws s.monitor o).length s.draws }

/-! ## The event writer (Chapter 10) -/

/-- The ring is full when (W − T) mod 65536 is 1024 (R162). -/
def EventWriter.full (w : EventWriter) : Bool := (w.written - w.taken).toNat = 1024

/-- The settings of a kind (R160). -/
def EventWriter.setting (w : EventWriter) (k : EventKind) : KindSetting := w.kinds[k.index]

/-- The notice line set from the list and the threshold (R168). -/
def EventWriter.withNotice (w : EventWriter) : EventWriter := { w with notice := noticeLevel w.shadow w.threshold }

/-- A record written: its two words, then the event-write-word write carrying the new W; the lost count goes into the
record and to 0, the priority to the end of the shadow list (R162, R163, R143). -/
def State.writeEvent (s : State) (e : Event) : State :=
  let w := s.events
  let priority := (w.setting e.kind).priority
  let words := wordsOfBytes 2 (e.bytes priority w.lost s.response.microseconds)
  let at_ := eventAddr w.written
  let written := { w with written := w.written + 1, lost := 0, shadow := w.shadow ++ [priority] }
  { s with
    mQueue := s.mQueue ++ [ownWrite at_ (words.getD 0 0), ownWrite (at_ + 16) (words.getD 1 0),
      ownWrite eventWordAddr (controlWord (w.written + 1))]
    events := written.withNotice }

/-- An event lost to a full ring (R165); its EVENTS-LOST occurrence is still to be reported. -/
def State.loseEvent (s : State) : State :=
  { s with events := { s.events with lost := raiseLost s.events.lost } }

/-- The EVENTS-LOST occurrence of a lost event (R165, R174). -/
def lostOccurrence (e : Event) : Occurrence := ⟨.eventsLost, 1, e.carrier, e.trib⟩

/-- Events raised one after another. Each is discarded, lost or written (R162). A lost one reports its EVENTS-LOST
occurrence, whose wrap reports are raised in turn (R177). The fuel bounds the raisings; see `monitorFuel`. -/
def raiseAll : Nat → List Event → State → State
  | 0, _, s => s
  | _, [], s => s
  | fuel + 1, e :: es, s =>
    if !(s.events.setting e.kind).enabled then raiseAll fuel es s
    else if s.events.full then
      let o := lostOccurrence e
      let wraps := wrapEvents s.draws s.monitor o
      raiseAll fuel (wraps ++ es) (s.loseEvent.countOccurrence o)
    else raiseAll fuel es (s.writeEvent e)

/-- The most raisings that one raising or one occurrence can lead to: itself, and one wrap of each of the eight
counters, since a counter that has just wrapped stands near 0 (R177). -/
def monitorFuel : Nat := 9

/-- An event of another block is raised (R162 to R165). -/
def State.raise (s : State) (e : Event) : State := raiseAll monitorFuel [e] s

/-- An occurrence is offered to the monitor, and the reports of the counters it wraps are raised (R174 to R177). -/
def State.report (s : State) (o : Occurrence) : State :=
  raiseAll monitorFuel (wrapEvents s.draws s.monitor o) (s.countOccurrence o)

/-! ## The fetch and the completion of a command (Chapters 7 and 9) -/

/-- The command processor enters FETCHING: the fetch entry is allocated, its generation advanced by 1, and one 8-word
read of record D mod 256 is appended to the M-side queue (R128, R148). -/
def State.issueFetch (s : State) : State :=
  let generation := s.response.fetch.generation + 1
  { s with
    response := { s.response with fetch :=
      { issued := true, generation := generation, issue := s.response.microseconds,
        interval := s.processor.limits.readExpiry } }
    processor := { s.processor with phase := .fetching }
    mQueue := s.mQueue ++
      [.read .own (mTag 0 generation true s.response.epoch) (recordAddr s.processor.done) 8] }

/-- The own writes of a completion, in order: for an admitted PICK command the grain list words 1 to 4, then words 5 to
7 of record D mod 256, then the done word carrying the new D (R143, R151). -/
def completionWrites (done : BitVec 16) (grains : Option (List Position)) (code : Completion) (data : List Byte) :
    List MRequest :=
  (match grains with
    | some ps => (grainWords ps).mapIdx fun i w => ownWrite (recordAddr done + BitVec.ofNat 32 (16 + 16 * i)) w
    | none => [])
  ++ ((replyWords code data).mapIdx fun i w => ownWrite (recordAddr done + BitVec.ofNat 32 (80 + 16 * i)) w)
  ++ [ownWrite doneWordAddr (controlWord (done + 1))]

/-- The completion event: the writes are appended, D rises by 1, and the command processor leaves REPLYING for FETCHING
if D now differs from P, and for IDLE otherwise (R151). `grains` is the chosen list of an admitted PICK command. -/
def State.completeWith (s : State) (grains : Option (List Position)) (code : Completion) (data : List Byte) : State :=
  let done := s.processor.done + 1
  let s := { s with
    mQueue := s.mQueue ++ completionWrites s.processor.done grains code data
    processor := { s.processor with done := done, phase := .idle, command := none } }
  if done = s.processor.post then s else s.issueFetch

/-- The completion of a command that writes no grain list (R151). -/
def State.complete (s : State) (code : Completion) (data : List Byte) : State := s.completeWith none code data

/-- The fetch entry becomes FREE, its generation kept (R128, R129). -/
def State.freeFetch (s : State) : State :=
  { s with response := { s.response with fetch := { s.response.fetch with issued := false } } }

/-- The command processor takes a fetched record as the command in progress (R147, R148). -/
def State.beginCommand (s : State) (r : Record) : State :=
  { s.freeFetch with processor := { s.freeFetch.processor with phase := .executing, command := some r } }

end Sys2Proof.Machine
end

