-- ==== Sys2Proof/Machine/Ingress.lean ====
section
/-! DEFINITION. What a forwarded write is noted for on its way through: the ingress tracker (Chapter 3), the post word (section 9.1) and the take word (section 10.5). -/

namespace Sys2Proof.Machine

/-- A tributary whose writes are tracked: IDLE, ACTIVE or SILENT (R44). -/
def Tributary.tracked (tr : Tributary) : Bool := tr.state = .idle || tr.state = .active || tr.state = .silent

/-- The classes of a tracked write (R45). -/
inductive WriteClass where
  | body
  | completion
  | partialLast
  | stray
  deriving DecidableEq, Repr

/-- The class of a tracked write, by its slot, the recorded width and the byte-enable flag of byte 15 (R45). -/
def writeClass (width slot : Nat) (flag15 : Bool) : WriteClass :=
  if width ≤ slot then .stray
  else if slot + 1 = width then (if flag15 then .completion else .partialLast)
  else .body

/-- The jump of a page completion: (p − IW) mod 8 (R46). -/
def ingressJump (page : BitVec 3) (iw : BitVec 16) : BitVec 3 := page - iw.setWidth 3

/-- IW after a page completion: (IW + j + 1) mod 65536 (R46). -/
def iwAfter (page : BitVec 3) (iw : BitVec 16) : BitVec 16 := iw + (ingressJump page iw).setWidth 16 + 1

/-- The tributary's record after a page completion: IW advances; on a SILENT tributary the state becomes ACTIVE and
every placement is restart-pending; otherwise a jump raises the ingress jump count (R46, R47, R49). -/
def Tributary.completed (tr : Tributary) (page : BitVec 3) : Tributary :=
  if tr.state = .silent then
    { tr with
      iw := iwAfter page tr.iw
      state := .active
      placements := tr.placements.map fun p => { p with restartPending := true } }
  else
    { tr with
      iw := iwAfter page tr.iw
      jumps := if ingressJump page tr.iw = 0 then tr.jumps else saturate tr.jumps }

/-- A page completion: its INGRESS-PAGES occurrence, and TRIB-RESTORED on a SILENT tributary or INGRESS-JUMP at a jump
(R46, R47, R49, R50). -/
def State.completePage (s : State) (t : TribId) (page : BitVec 3) : State :=
  let tr := s.trib t
  let s := (s.setTrib t (tr.completed page)).report ⟨.ingressPages, 1, none, some t⟩
  if tr.state = .silent then s.raise (.tribRestored t tr.iw (iwAfter page tr.iw) tr.placements.length)
  else if ingressJump page tr.iw = 0 then s
  else s.raise (.ingressJump t page (ingressJump page tr.iw) tr.iw)

/-- A stray slot write: the count is raised and one STRAY-SLOT-WRITES occurrence reported (R48). -/
def State.straySlot (s : State) (t : TribId) : State :=
  (s.setTrib t { s.trib t with strays := saturate (s.trib t).strays }).report ⟨.straySlotWrites, 1, none, some t⟩

/-- The ingress tracker takes a write to the tributary region (R43 to R50). -/
def State.trackWrite (s : State) (w : UWrite) : State :=
  let t := tribOf w.address
  if (s.trib t).tracked then
    match writeClass (s.trib t).width (slotOf w.address) (w.enables.getLsbD 15) with
    | .completion => s.completePage t (pageOf w.address)
    | .stray => s.straySlot t
    | .body => s
    | .partialLast => s
  else s

/-- Whether the command processor takes a post count: (P′ − D) mod 65536 at most 256, and in any state but IDLE at
least 1 (R146). -/
def Processor.takesPost (p : Processor) (count : BitVec 16) : Bool :=
  (count - p.done).toNat ≤ 256 && (p.phase = .idle || 1 ≤ (count - p.done).toNat)

/-- A post count handed to the command processor: taken as P, entering FETCHING from IDLE when P now differs from D; or
rejected with POST-REJECTED (R146). -/
def State.handPost (s : State) (count : BitVec 16) : State :=
  if s.processor.takesPost count then
    let t := { s with processor := { s.processor with post := count } }
    if s.processor.phase = .idle ∧ count ≠ s.processor.done then t.issueFetch else t
  else s.raise (.postRejected count s.processor.done s.processor.post)

/-- A take count handed to the event writer: taken when it lies within the untaken records, else ignored (R166). -/
def State.handTake (s : State) (count : BitVec 16) : State :=
  let w := s.events
  if (count - w.taken).toNat ≤ (w.written - w.taken).toNat then
    let taken := { w with taken := count, shadow := w.shadow.drop (count - w.taken).toNat }
    { s with events := taken.withNotice }
  else s

end Sys2Proof.Machine
end

