-- ==== Sys2Proof/Machine/Map.lean ====
section
/-! DEFINITION. The grooming map (Chapter 1): pieces, carrier read cost, the pick allocator, and the application of a pending change. -/

namespace Sys2Proof.Machine

/-! ## Pieces and cost (sections 1.2 and 1.3) -/

/-- Two consecutive positions of one range belong to the same piece: both mapped to the same placement, the second slot
the first plus 1 and not a multiple of 8 (R4). -/
def joins (before here : MapEntry) : Bool :=
  before.trib == here.trib && here.slot == before.slot + 1 && here.slot % 8 != 0

/-- The pieces of a range, after the entry of the position before it (R4): each mapped position that does not join the
one before it begins a piece. -/
def pieceCountFrom : Option MapEntry → List (Option MapEntry) → Nat
  | _, [] => 0
  | _, none :: rest => pieceCountFrom none rest
  | none, some e :: rest => 1 + pieceCountFrom (some e) rest
  | some b, some e :: rest => (if joins b e then 0 else 1) + pieceCountFrom (some e) rest

/-- The piece count of a range (R5). -/
def pieceCount (range : List (Option MapEntry)) : Nat := pieceCountFrom none range

/-- The entries of group k: positions 8k to 8k + 7 (Figure 0-4). -/
def group (m : CarrierMap) (k : Nat) : List (Option MapEntry) := (m.toList.drop (8 * k)).take 8

/-- The carrier read cost: the piece counts of groups 0 to 29 (R6). -/
def readCost (m : CarrierMap) : Nat := ((List.range 30).map fun k => pieceCount (group m k)).sum

/-- The mapped count: the entries that are not UNASSIGNED (R6). -/
def mappedCount (m : CarrierMap) : Nat := countTable (·.isSome) m

/-- An entry of tributary t. -/
def namesTrib (t : TribId) : Option MapEntry → Bool
  | some e => e.trib == t
  | none => false

/-- Every entry of tributary t set UNASSIGNED (R21, R22). -/
def clearEntries (t : TribId) (m : CarrierMap) : CarrierMap :=
  mapTable (fun e => if namesTrib t e then none else e) m

/-- Entry (t, i) written at the i-th position of a list (R20, R21). -/
def writeEntries (t : TribId) (positions : List Position) (m : CarrierMap) : CarrierMap :=
  positions.zipIdx.foldl (fun m pi => m.set pi.1 (some ⟨t, pi.2⟩)) m

/-- The map a change leaves (R20, R21, R22). -/
def changedMap (kind : ChangeKind) (t : TribId) (positions : List Position) (m : CarrierMap) : CarrierMap :=
  match kind with
  | .place => writeEntries t positions m
  | .regroom => writeEntries t positions (clearEntries t m)
  | .unplace => clearEntries t m

/-! ## The pick allocator (section 1.4) -/

/-- Whether a position is free for a change: UNASSIGNED, or held by the placement being regroomed (R8, R9). -/
def isFree (own : Option TribId) (e : Option MapEntry) : Bool :=
  match e with
  | none => true
  | some e => own == some e.trib

/-- The pieces a contiguous candidate would form: 1, and 1 for each k from 1 to w − 1 at which a group or a slot block
begins (R9). -/
def candidatePieces (g0 w : Nat) : Nat :=
  1 + ((List.range w).filter fun k => k != 0 && ((g0 + k) % 8 == 0 || k % 8 == 0)).length

/-- The start positions of the contiguous candidates, lowest first (R9). -/
def candidates (w : Nat) (free : List Bool) : List Nat :=
  (List.range (241 - w)).filter fun g0 => ((free.drop g0).take w).all id

/-- The candidate with the fewest pieces, the lowest of those (R9). -/
def bestCandidate (w : Nat) : List Nat → Option Nat
  | [] => none
  | g :: rest =>
    match bestCandidate w rest with
    | none => some g
    | some h => if candidatePieces g w ≤ candidatePieces h w then some g else some h

/-- The w lowest-numbered free positions, if there are so many (R10). -/
def scattered? (w : Nat) (free : List Bool) : Option (List Position) :=
  let ps := ((free.zipIdx.filter (·.1)).map (·.2)).take w
  if ps.length = w then some (ps.filterMap toPosition?) else none

/-- The positions the part chooses for a PICK command (R9, R10). -/
def pick? (w : Nat) (scatter : Bool) (own : Option TribId) (m : CarrierMap) : Option (List Position) :=
  let free := m.toList.map (isFree own)
  match bestCandidate w (candidates w free) with
  | some g0 => some (((List.range w).map (g0 + ·)).filterMap toPosition?)
  | none => if scatter then scattered? w free else none

/-! ## Application (section 1.6) -/

/-- Where an application is taken: step 3 of a cycle start, or expiry of the deadline (R17, R18). -/
inductive ApplyAt where
  | cycleStart
  | expiry
  deriving DecidableEq, Repr

/-- The placement record that a PLACE creates (Figure 1-5). -/
def newPlacement (tr : Tributary) (c : CarrierId) (at_ : ApplyAt) : Placement where
  carrier := c
  er := tr.iw - BitVec.ofNat 16 tr.targetLag
  smoothed := 256 * tr.targetLag
  drift := .centred
  quiet := 0
  snapshot := tr.iw
  fresh := at_ == .cycleStart
  restartPending := false

/-- The tributary's record after an application: a PLACE appends a placement and makes an IDLE tributary ACTIVE; a
REGROOM keeps the record; an UNPLACE removes the placement, and the last one leaves the tributary IDLE
(R20, R21, R22, R32). -/
def Tributary.applied (tr : Tributary) (kind : ChangeKind) (c : CarrierId) (at_ : ApplyAt) : Tributary :=
  match kind with
  | .place =>
    { tr with
      state := if tr.state = .idle then .active else tr.state
      placements := tr.placements ++ [newPlacement tr c at_] }
  | .regroom => tr
  | .unplace =>
    let rest := tr.placements.filter fun p => p.carrier ≠ c
    { tr with
      state := if rest.isEmpty && (tr.state = .active || tr.state = .silent) then .idle else tr.state
      placements := rest }

/-- A tributary's positions in a carrier are served with its fill byte under ALARM: it is SILENT, or its placement in
the carrier is restart-pending (R66). -/
def Tributary.alarmIn (tr : Tributary) (c : CarrierId) : Bool :=
  tr.state = .silent || match tr.placementIn c with
    | some p => p.restartPending
    | none => false

/-- The REPEAT, SKIP or RESTART that a position of the placement shows just before an application at expiry (R23). -/
def heldOutcome (t : TribId) (r : Carrier) : Option Indication :=
  ((r.map.toList.zip r.indications.toList).find? fun ei =>
    namesTrib t ei.1 && (ei.2 == .repeated || ei.2 == .skipped || ei.2 == .restart)).map (·.2)

/-- The indication byte of a position that an application at expiry gives a new entry (R23). -/
def expiryIndication (kind : ChangeKind) (alarm : Bool) (held : Option Indication) : Indication :=
  if alarm then .alarm
  else match kind, held with
    | .regroom, some i => i
    | .regroom, none => .moved
    | _, _ => .fresh

/-- The indication bytes after an application at expiry: the positions the change touched are rewritten, every other
byte is left as it was (R23, R67). `tr` is the tributary's record after the application. -/
def expiryIndications (ch : PendingChange) (tr : Tributary) (old : Carrier) (new : CarrierMap) : Vector Indication 240 :=
  let written := expiryIndication ch.kind (tr.alarmIn ch.carrier) (heldOutcome ch.trib old)
  tabulate fun i : Fin 240 =>
    if old.map[i] = new[i] then old.indications[i]
    else if new[i].isSome then written else .unassigned

/-- The reply data of an applied map change: the carrier's cost and generation (R19, Figure 12-9). -/
def mapReply (cost : Nat) (generation : BitVec 16) : List Byte := [byte cost, 0] ++ leBytes 2 generation.toNat

/-- The carrier's record after an application, but for the indication bytes (R19). -/
def Carrier.applied (r : Carrier) (m : CarrierMap) : Carrier :=
  { r with
    map := m
    generation := r.generation + 1
    cost := readCost m
    mapped := mappedCount m
    pendingFlag := false }

/-- The chosen list that an admitted PICK command writes back at its completion: PICK is flag bit 0 of its record, and it
has no effect on UNPLACE (R10, R11). -/
def pickedList (command : Option Record) (ch : PendingChange) : Option (List Position) :=
  match command with
  | some r => if recFlag r 0 && ch.kind != .unplace then some ch.positions else none
  | none => none

/-- The effects of the application of a pending change on the map and the tables (R19 to R23). -/
def State.rewriteMap (s : State) (ch : PendingChange) (at_ : ApplyAt) : State :=
  let old := s.carrier ch.carrier
  let m := changedMap ch.kind ch.trib ch.positions old.map
  let tr := (s.trib ch.trib).applied ch.kind ch.carrier at_
  let new := old.applied m
  let new := match at_ with
    | .cycleStart => new
    | .expiry => { new with indications := expiryIndications ch tr old m }
  { (s.setTrib ch.trib tr).setCarrier ch.carrier new with change := none }

/-- The application of a pending change as one event, and with it the completion of the command: DONE at a cycle start,
APPLIED-LATE at expiry (R17, R18, R19). Assumption log entry 6: the completion is taken here, before step 4. -/
def State.applyChange (s : State) (ch : PendingChange) (at_ : ApplyAt) : State :=
  let t := s.rewriteMap ch at_
  let r := t.carrier ch.carrier
  t.completeWith (pickedList s.processor.command ch)
    (match at_ with
      | .cycleStart => .done
      | .expiry => .appliedLate)
    (mapReply r.cost r.generation)

end Sys2Proof.Machine
end

