-- ==== Sys2Proof/Machine/Lag.lean ====
section
/-! DEFINITION. The lag unit (Chapter 5) and the cycle start of a carrier (Chapter 4). -/

namespace Sys2Proof.Machine

/-! ## The evaluation of one placement (section 5.3) -/

/-- A slip of an evaluation: its signed size, and the lag before it (R84). -/
structure Slip where
  size : Int
  lag : Nat
  deriving DecidableEq, Repr

/-- What the evaluation of a placement comes to: the placement record it leaves, its outcome, the slip it took, the
drift state it moved to, and the lag after step 6. -/
structure Evaluation where
  placement : Placement
  outcome : Outcome
  slip : Option Slip
  moved : Option Drift
  lag : Nat
  deriving DecidableEq, Repr

/-- An evaluation that stops before step 5 with a placement record and an outcome. -/
def Evaluation.stop (p : Placement) (o : Outcome) : Evaluation := ⟨p, o, none, none, 0⟩

/-- Step 3: the placement recentred after restoration (R77). -/
def recentred (tr : Tributary) (p : Placement) : Placement :=
  { p with
    er := tr.iw - BitVec.ofNat 16 tr.targetLag
    quiet := 0
    snapshot := tr.iw
    smoothed := 256 * tr.targetLag
    drift := .centred
    restartPending := false }

/-- Step 4: the placement with its quiet count raised or zeroed and a new snapshot (R78). -/
def quieted (tr : Tributary) (p : Placement) : Placement :=
  { p with quiet := if tr.iw = p.snapshot then p.quiet + 1 else 0, snapshot := tr.iw }

/-- Step 6: the slip that a lag calls for: backward at 0, forward at 7 and above (R81, R82, R83). -/
def slipOf (target lag : Nat) : Option Slip :=
  if lag = 0 then some ⟨-(target : Int), lag⟩
  else if 7 ≤ lag then some ⟨(lag : Int) - target, lag⟩
  else none

/-- Step 7: S moved one eighth of the way toward 256 times the lag, rounded toward zero (R85). -/
def smooth (smoothed lag : Nat) : Nat :=
  ((smoothed : Int) + Int.tdiv (256 * (lag : Int) - smoothed) 8).toNat

/-- Step 8: the drift state after a comparison of S with the margins about the centre (R86). -/
def driftAfter (limits : Limits) (target smoothed : Nat) (before : Drift) : Drift :=
  let centre : Int := 256 * target
  let s : Int := smoothed
  match before with
  | .centred => if s < centre - limits.enter then .low else if centre + limits.enter < s then .high else .centred
  | .low => if centre - limits.leave ≤ s then .centred else .low
  | .high => if s ≤ centre + limits.leave then .centred else .high

/-- The outcome of an evaluation that reaches step 8 (R88). -/
def slipOutcome : Option Slip → Outcome
  | none => .normal
  | some sl => if sl.lag = 0 then .repeated else .skipped

/-- Steps 5 to 8: advance, slip, smoothing, drift (R80 to R87). -/
def advanced (limits : Limits) (tr : Tributary) (p : Placement) : Evaluation :=
  let er := p.er + 1
  let lag := (tr.iw - er).toNat
  let slip := slipOf tr.targetLag lag
  let lagAfter := if slip.isSome then tr.targetLag else lag
  let smoothed := smooth p.smoothed lagAfter
  let drift := driftAfter limits tr.targetLag smoothed p.drift
  { placement :=
      { p with
        er := if slip.isSome then tr.iw - BitVec.ofNat 16 tr.targetLag else er
        smoothed := smoothed
        drift := drift }
    outcome := slipOutcome slip
    slip := slip
    moved := if drift = p.drift then none else some drift
    lag := lagAfter }

/-- The evaluation of a placement through steps 1 to 8, ended at the first step that stops it (R74 to R88). -/
def evaluation (limits : Limits) (tr : Tributary) (p : Placement) : Evaluation :=
  if p.fresh then .stop { p with fresh := false } .fresh
  else if tr.state = .silent then .stop p .silentHold
  else if p.restartPending then .stop (recentred tr p) .restart
  else if limits.silence ≤ (quieted tr p).quiet then .stop (quieted tr p) .silenced
  else advanced limits tr (quieted tr p)

/-- Whether an evaluation raises an event: TRIB-SILENT, SLIP or a drift event. -/
def Evaluation.raises (e : Evaluation) : Bool := e.outcome == .silenced || e.slip.isSome || e.moved.isSome

/-- The drift event of a move (R87). -/
def driftEvent (t : TribId) (c : CarrierId) (target : Nat) (e : Evaluation) : Drift → Event
  | .low => .lagLow t c e.placement.smoothed target e.lag
  | .high => .lagHigh t c e.placement.smoothed target e.lag
  | .centred => .lagCentred t c e.placement.smoothed target e.lag

/-- The tributary's record after an evaluation of its placement in carrier c: the placement record replaced, the state
SILENT where silence is declared, the repeat or skip slip count raised at a slip (R79, R82, R83). -/
def Tributary.evaluated (tr : Tributary) (c : CarrierId) (e : Evaluation) : Tributary :=
  { tr with
    placements := tr.placements.map fun p => if p.carrier = c then e.placement else p
    state := if e.outcome = .silenced then .silent else tr.state
    repeatSlips := if e.outcome = .repeated then saturate tr.repeatSlips else tr.repeatSlips
    skipSlips := if e.outcome = .skipped then saturate tr.skipSlips else tr.skipSlips }

/-- Every position of a tributary in a carrier shows ALARM; the other bytes stay (R67). -/
def alarmPositions (t : TribId) (r : Carrier) : Carrier :=
  { r with indications := tabulate fun i : Fin 240 => if namesTrib t r.map[i] then .alarm else r.indications[i] }

/-- Every position of a tributary in every carrier shows ALARM at once (R67, R79). -/
def State.alarmEverywhere (s : State) (t : TribId) : State :=
  { s with carriers := mapTable (alarmPositions t) s.carriers }

/-- The events and occurrences of an evaluation, in the order of its steps: TRIB-SILENT; or SLIP and its SLIPS
occurrence, then a drift event (R79, R84, R87, R88). -/
def State.reportEvaluation (s : State) (t : TribId) (c : CarrierId) (tr : Tributary) (e : Evaluation) : State :=
  let s := if e.outcome = .silenced
    then (s.alarmEverywhere t).raise (.tribSilent t c tr.iw e.placement.er e.placement.quiet)
    else s
  let s := match e.slip with
    | some sl => (s.raise (.slip t c sl.size sl.lag)).report ⟨.slips, 1, some c, some t⟩
    | none => s
  match e.moved with
  | some d => s.raise (driftEvent t c tr.targetLag e d)
  | none => s

/-- The evaluation of tributary t's placement in carrier c under the limits and records as they stand (R73). -/
def State.evaluationOf (s : State) (c : CarrierId) (t : TribId) : Option Evaluation :=
  ((s.trib t).placementIn c).map fun p => evaluation s.processor.limits (s.trib t) p

/-- One placement evaluated as one event at the tributary record and the placement record (R74). -/
def State.evaluate (s : State) (c : CarrierId) (t : TribId) : State :=
  match s.evaluationOf c t with
  | some e => (s.setTrib t ((s.trib t).evaluated c e)).reportEvaluation t c (s.trib t) e
  | none => s

/-! ## The cycle start (section 4.4) -/

/-- The tributaries whose placement records name carrier c (R62), in index order. -/
def State.placedIn (s : State) (c : CarrierId) : List TribId :=
  (((List.finRange 1024).zip s.tributaries.toList).filter fun tr => tr.2.placements.any (·.carrier = c)).map (·.1)

/-- Whether the evaluation of t's placement in c raises an event. -/
def State.evaluationRaises (s : State) (c : CarrierId) (t : TribId) : Bool :=
  match s.evaluationOf c t with
  | some e => e.raises
  | none => false

/-- The placements of carrier c whose evaluation raises an event. Their events may stand in the ring in either order
(R62), so they are taken in a free order; the evaluations that raise none touch their own records only. -/
def State.raisingIn (s : State) (c : CarrierId) : List TribId :=
  orderByKey (fun t : TribId => Config.orderKey s.draws t.val) ((s.placedIn c).filter (s.evaluationRaises c ·))

/-- The order in which step 4 evaluates the placements of carrier c. -/
def State.evaluationOrder (s : State) (c : CarrierId) : List TribId :=
  (s.placedIn c).filter (fun t => !s.evaluationRaises c t) ++ s.raisingIn c

/-- Step 4: each placement whose record names carrier c is evaluated once (R62, R74). -/
def State.evaluateAll (s : State) (c : CarrierId) : State :=
  let order := s.evaluationOrder c
  order.foldl (fun s t => s.evaluate c t) { s with draws := drawn (s.raisingIn c).length s.draws }

/-- FRESH or MOVED where the change applied at step 3 gives it to a position: each position of a placement just made by
PLACE, each position whose entry a REGROOM wrote differently (R23). `before` and `after` are the position's entries
before and after step 3. -/
def appliedIndication (change : Option PendingChange) (before after : Option MapEntry) : Option Indication :=
  match change with
  | some ch =>
    if namesTrib ch.trib after then
      match ch.kind with
      | .place => some .fresh
      | .regroom => if before = after then none else some .moved
      | .unplace => none
    else none
  | none => none

/-- Step 5: every indication byte of carrier c is written anew (R66). `s0` is the state before step 3, `s4` before
step 4, `change` the change that step 3 applied. -/
def State.recomputeIndications (s : State) (c : CarrierId) (s0 s4 : State) (change : Option PendingChange) : State :=
  let r := s.carrier c
  s.setCarrier c
    { r with indications := tabulate fun i : Fin 240 =>
        match r.map[i] with
        | none => .unassigned
        | some e =>
          stepFiveIndication ((s.trib e.trib).alarmIn c) ((s4.evaluationOf c e.trib).map (·.outcome))
            (appliedIndication change (s0.carrier c).map[i] r.map[i]) }

/-- The change that a cycle start of carrier c applies at step 3: the pending change, if it targets c (R17). -/
def State.changeFor (s : State) (c : CarrierId) : Option PendingChange :=
  match s.change with
  | some ch => if ch.carrier = c then some ch else none
  | none => none

/-- Step 1: the current page becomes p; a page that does not follow the old one raises CARRIER-PAGE-JUMP (R63). -/
def State.takePage (s : State) (c : CarrierId) (p : BitVec 3) : State :=
  let old := (s.carrier c).page
  let s := s.setCarrier c { s.carrier c with page := some p }
  match old with
  | some q => if p = q + 1 then s else s.raise (.carrierPageJump c q p (p - q - 1))
  | none => s

/-- Step 2: the cycle count rises by 1, and one CYCLE-STARTS occurrence is reported (R62). -/
def State.countCycle (s : State) (c : CarrierId) : State :=
  (s.setCarrier c { s.carrier c with cycles := (s.carrier c).cycles + 1 }).report ⟨.cycleStarts, 1, some c, none⟩

/-- The cycle start of carrier c at page p: the five steps, in order, as one event (R62). -/
def State.cycleStart (s : State) (c : CarrierId) (p : BitVec 3) : State :=
  let s0 := (s.takePage c p).countCycle c
  let change := s0.changeFor c
  let s4 := match change with
    | some ch => s0.applyChange ch .cycleStart
    | none => s0
  (s4.evaluateAll c).recomputeIndications c s0 s4 change

end Sys2Proof.Machine
end

