-- ==== Sys2Proof/Machine/Translation.lean ====
section
/-! DEFINITION. The translation unit (Chapter 6): the classes of reads, the cut of a TRANSLATED read, the acceptance of a read, the source lists and the ready responses. -/

namespace Sys2Proof.Machine

/-! ## Lists and ready responses (R95, R108, R109) -/

/-- The list of a source. -/
def State.sourceList (s : State) (src : Source) : List (Fin 32) := s.translation.lists[src]

/-- The state with the list of a source replaced. -/
def State.setSourceList (s : State) (src : Source) (l : List (Fin 32)) : State :=
  { s with translation := { s.translation with lists := s.translation.lists.set src l } }

/-- The first entry of a source's list, when it is COMPLETE and not among the ready responses yet (R108). -/
def Translation.newlyReady (tr : Translation) (src : Source) : Option (Fin 32) :=
  match tr.lists[src].head? with
  | some i => if tr.parents[i].state = .complete ∧ i ∉ tr.ready then some i else none
  | none => none

/-- The responses that have become ready join the others, those of one event in the order of their source numbers
(R109). -/
def State.refreshReady (s : State) : State :=
  { s with translation :=
      { s.translation with
        ready := s.translation.ready ++ (List.finRange 16).filterMap s.translation.newlyReady } }

/-! ## Classes (R92, R93) -/

/-- The class of a read, by region, form, positions and the state of its carrier (Figure 6-1). -/
def State.classOf (s : State) (r : URead) : ReadClass :=
  if !r.inWindow then .pass
  else if !r.wellFormed then .malformed
  else if 240 ≤ windowPosition r.address then .overhead
  else if (s.carrier (windowCarrier r.address)).on then .translated
  else .offCarrier

/-! ## The cut (section 6.5) -/

/-- What a position of a TRANSLATED read is served with (R100). -/
inductive WordKind where
  | unassigned
  | alarm (trib : TribId)
  | read (trib : TribId) (slot : Nat) (page : BitVec 3)
  deriving DecidableEq, Repr

/-- The kind of a position, by its map entry and the records as they stand (R100). A map entry without a placement
record does not arise (R2); it is filled as under ALARM. -/
def State.wordKind (s : State) (c : CarrierId) (g : Nat) : WordKind :=
  match (s.carrier c).map.toList.getD g none with
  | none => .unassigned
  | some e =>
    match (s.trib e.trib).placementIn c with
    | none => .alarm e.trib
    | some p =>
      if (s.trib e.trib).alarmIn c then .alarm e.trib else .read e.trib e.slot (p.er.setWidth 3)

/-- The kinds of the positions of a read. -/
def State.wordKinds (s : State) (r : URead) : List WordKind :=
  r.positions.map (s.wordKind (windowCarrier r.address))

/-- A piece: the tributary, the offset of its first word in the read, its first slot, its page and its length (R101). -/
structure Piece where
  trib : TribId
  first : Nat
  slot : Nat
  page : BitVec 3
  length : Nat
  deriving DecidableEq, Repr

/-- The next position is a read position of the same tributary that joins the piece at a slot: its slot is the slot plus
1 and not a multiple of 8 (R4, R101). -/
def joinsNext (t : TribId) (slot : Nat) : List WordKind → Bool
  | .read t' slot' _ :: _ => t' == t && slot' == slot + 1 && slot' % 8 != 0
  | _ => false

/-- The pieces of a read whose positions have these kinds, the first of them at an offset (R101). -/
def cutPieces : Nat → List WordKind → List Piece
  | _, [] => []
  | k, .read t slot page :: rest =>
    match joinsNext t slot rest, cutPieces (k + 1) rest with
    | true, p :: ps => { p with first := k, slot := slot, length := p.length + 1 } :: ps
    | _, ps => ⟨t, k, slot, page, 1⟩ :: ps
  | k, _ :: rest => cutPieces (k + 1) rest

/-- The word buffer of a TRANSLATED read at acceptance: fill words filled, read words pending (R100). -/
def State.fillOf (s : State) : WordKind → Option Word
  | .unassigned => some (fillWord s.processor.limits.unassignedFill)
  | .alarm t => some (fillWord (s.trib t).fill)
  | .read _ _ _ => none

/-- The tributary of a position that is filled under ALARM. -/
def WordKind.alarmTrib? : WordKind → Option TribId
  | .alarm t => some t
  | _ => none

/-- The tributaries that have positions filled under ALARM, in a free order where there are several: R103 gives their
occurrences no order among themselves (assumption log entry 3). -/
def alarmTribs (draws : Nat) (kinds : List WordKind) : List TribId :=
  orderByKey (fun t : TribId => Config.orderKey draws t.val) (kinds.filterMap WordKind.alarmTrib?).eraseDups

/-- The fill occurrences of the acceptance of a TRANSLATED read: FILL-WORDS-ALARM for each tributary so filled, then
FILL-WORDS-UNASSIGNED (R103). -/
def fillOccurrences (draws : Nat) (c : CarrierId) (kinds : List WordKind) : List Occurrence :=
  ((alarmTribs draws kinds).map fun t =>
      ⟨.fillWordsAlarm, (kinds.filterMap WordKind.alarmTrib?).count t, some c, some t⟩)
    ++ (if kinds.count .unassigned = 0 then []
      else [⟨.fillWordsUnassigned, kinds.count .unassigned, some c, none⟩])

/-! ## Acceptance (section 6.4) -/

/-- How many sub-read entries are FREE. -/
def State.freeSubReads (s : State) : Nat := countTable (fun e => e.state = .free) s.translation.subReads

/-- The lowest-numbered FREE parent entry (R94). -/
def State.freeParent? (s : State) : Option (Fin 32) := lowest? (fun p => p.state = .free) s.translation.parents

/-- How many sub-read entries a read needs (R97). -/
def State.subReadsNeeded (s : State) (r : URead) : Nat :=
  match s.classOf r with
  | .pass => 1
  | .translated => (cutPieces 0 (s.wordKinds r)).length
  | _ => 0

/-- A parent entry taken for a read: it stands at the end of its source's list, COMPLETE when nothing is outstanding and
OPEN otherwise (R94, R95). -/
def State.openParent (s : State) (i : Fin 32) (r : URead) (cls : ReadClass) (carrier : Option CarrierId)
    (words : List (Option Word)) (status : Status) (outstanding : Nat) : State :=
  let s := s.setParent i
    { state := if outstanding = 0 then .complete else .opened
      source := r.source
      tag := r.tag
      address := r.address
      length := r.length
      cls := cls
      carrier := carrier
      words := words
      store := []
      status := status
      outstanding := outstanding
      late := 0
      faults := 0 }
  (s.setSourceList r.source (s.sourceList r.source ++ [i])).refreshReady

/-- The lowest-numbered FREE sub-read entry is allocated and its M-side read appended to the queue: generation advanced
by 1, the microsecond count as issue time, the read expiry interval in effect (R96, R135). -/
def State.allocate (s : State) (parent : Fin 32) (first length : Nat) (trib : Option TribId)
    (carrier : Option CarrierId) (address : Addr) (origin : Origin) : State :=
  match lowest? (fun e => e.state = .free) s.translation.subReads with
  | none => s
  | some k =>
    let generation := (s.sub k).generation + 1
    (s.setSub k
      { state := .issued
        generation := generation
        parent := parent
        first := first
        length := length
        trib := trib
        carrier := carrier
        address := address
        issue := s.response.microseconds
        interval := s.processor.limits.readExpiry }).enqueue
      [.read origin (mTag k.val generation false s.response.epoch) address (BitVec.ofNat 8 length)]

/-- The sub-read of one piece: its allocation, its tributary's in-flight count raised by 1, and one SUB-READS occurrence
(R102). The M-side read is appended before the occurrence is reported: assumption log entry 23. -/
def State.issuePiece (s : State) (parent : Fin 32) (c : CarrierId) (p : Piece) : State :=
  let s := s.allocate parent p.first p.length (some p.trib) (some c) (slotAddress p.trib p.page p.slot) .own
  (s.setTrib p.trib { s.trib p.trib with inFlight := (s.trib p.trib).inFlight + 1 }).report
    ⟨.subReads, 1, some c, some p.trib⟩

/-- The acceptance of a TRANSLATED read (R100 to R103). DESIGN CHOICE: CARRIER-READS and the fill occurrences, and any
MONITOR-WRAP they raise, come before the M-side reads of the pieces are appended: R102, R103, R135 and R176 give no order.
Unsafe; assumption log entry 23. -/
def State.acceptTranslated (s : State) (i : Fin 32) (r : URead) : State :=
  let c := windowCarrier r.address
  let kinds := s.wordKinds r
  let pieces := cutPieces 0 kinds
  let status : Status := if (kinds.filterMap WordKind.alarmTrib?).isEmpty then .ok else .alarm
  let s := s.openParent i r .translated (some c) (kinds.map s.fillOf) status pieces.length
  let occurrences := ⟨.carrierReads, 1, some c, none⟩ :: fillOccurrences s.draws c kinds
  let s := occurrences.foldl State.report { s with draws := drawn (alarmTribs s.draws kinds).length s.draws }
  pieces.foldl (fun s p => s.issuePiece i c p) s

/-- The acceptance of an OVERHEAD read: its words from the carrier record, all at one instant (R60, R68). -/
def State.acceptOverhead (s : State) (i : Fin 32) (r : URead) : State :=
  let c := windowCarrier r.address
  s.openParent i r .overhead (some c) (r.positions.map fun g => some (overheadWord (s.carrier c) g)) .ok 0

/-- The acceptance of an OFF-CARRIER read: every word the unassigned fill (R59). -/
def State.acceptOffCarrier (s : State) (i : Fin 32) (r : URead) : State :=
  let c := windowCarrier r.address
  let fill := List.replicate r.length.toNat (some (fillWord s.processor.limits.unassignedFill))
  ((s.openParent i r .offCarrier (some c) fill .ok 0).report ⟨.carrierReads, 1, some c, none⟩).report
    ⟨.fillWordsUnassigned, r.length.toNat, some c, none⟩

/-- The acceptance of a MALFORMED read: status ERROR, no words, one MALFORMED-REQUEST event (R106, R139). -/
def State.acceptMalformed (s : State) (i : Fin 32) (r : URead) : State :=
  let c := windowCarrier r.address
  (s.openParent i r .malformed (some c) [] .error 0).raise (.malformedRequest c r.source r.tag r.length r.address)

/-- The acceptance of a PASS read: one sub-read entry with the read's own address and length; a malformed one does not
use the word buffer (R104, R105). DESIGN CHOICE: its M-side read is appended before its PASS-READS occurrence is
reported, so a MONITOR-WRAP record of that occurrence stands behind the read: R138 gives no order. Unsafe; assumption log
entry 23. -/
def State.acceptPass (s : State) (i : Fin 32) (r : URead) : State :=
  let words := if r.wellFormed then List.replicate r.length.toNat none else []
  ((s.openParent i r .pass none words .ok 1).allocate i 0 r.length.toNat none none r.address .forwarded).report
    ⟨.passReads, 1, none, none⟩

/-- A read is accepted into parent entry i. -/
def State.acceptRead (s : State) (i : Fin 32) (r : URead) : State :=
  match s.classOf r with
  | .translated => s.acceptTranslated i r
  | .overhead => s.acceptOverhead i r
  | .offCarrier => s.acceptOffCarrier i r
  | .malformed => s.acceptMalformed i r
  | .pass => s.acceptPass i r

/-- The carrier and page of the cycle start that an offered read calls for: a well-formed carrier-window read of an ON
carrier whose page field differs from the current page, or finds it none (R61). -/
def State.cycleCall (s : State) (r : URead) : Option (CarrierId × BitVec 3) :=
  let c := windowCarrier r.address
  let p := windowPage r.address
  if r.inWindow && r.wellFormed && (s.carrier c).on && (s.carrier c).page != some p then some (c, p) else none

/-- A read that cannot be accepted is held; the first time, it reports one ACCEPT-WAITS occurrence, with the carrier for
a carrier-window read (R98). -/
def State.holdRead (s : State) (r : URead) (waitReported : Bool) : State :=
  if waitReported then s
  else s.report ⟨.acceptWaits, 1, if r.inWindow then some (windowCarrier r.address) else none, none⟩

/-- The cycle start that an offered read takes, if any (R61, R98 step 2). -/
def State.withCycleStart (s : State) (r : URead) : State :=
  match s.cycleCall r with
  | some (c, p) => s.cycleStart c p
  | none => s

/-- An offer of a read: a FREE parent entry, then any cycle start, then enough FREE sub-read entries; whether the read is
accepted (R98). -/
def State.offerRead (s : State) (r : URead) (waitReported : Bool) : State × Bool :=
  match s.freeParent? with
  | none => (s.holdRead r waitReported, false)
  | some i =>
    let t := s.withCycleStart r
    if t.subReadsNeeded r ≤ t.freeSubReads then (t.acceptRead i r, true) else (t.holdRead r waitReported, false)

end Sys2Proof.Machine
end

