-- ==== Sys2Proof/Machine/Channel.lean ====
section
/-! DEFINITION. The channel front (Chapter 8): writes, the head of the upstream channel, offers and re-offers; and the meanings of the request rows. -/

namespace Sys2Proof.Machine

/-- An M-side queue entry that forwards a U-side write (Figure 8-3). -/
def MRequest.isForwardedWrite : MRequest → Bool
  | .write .forwarded _ _ _ _ => true
  | _ => false

/-- How many forwarded writes the M-side queue holds (R134). -/
def State.forwardedWrites (s : State) : Nat := s.mQueue.countP MRequest.isForwardedWrite

/-- A stray write: dropped, with one STRAY-WRITE event (R140). -/
def State.dropStray (s : State) (w : UWrite) : State :=
  s.raise (.strayWrite (windowCarrier w.address) w.source w.address)

/-- A write is appended to the M-side queue as it stands, and one PASS-WRITES occurrence is reported (R137). DESIGN
CHOICE: the occurrence, and any MONITOR-WRAP it raises, comes after the append (assumption log entry 23). -/
def State.forwardWrite (s : State) (w : UWrite) : State :=
  (s.enqueue [.write .forwarded w.source w.address w.data w.enables]).report ⟨.passWrites, 1, none, none⟩

/-- What a forwarded write is noted for: the ingress tracker in the tributary region, the post word and the take word
(R43, R133, R141). It comes after the forwarding and its PASS-WRITES: assumption log entry 23. -/
def State.noteWrite (s : State) (w : UWrite) : State :=
  if region w.address = .tributary then s.trackWrite w
  else if isPostWordWrite w then s.handPost (writtenCount w)
  else if isTakeWordWrite w then s.handTake (writtenCount w)
  else s

/-- An offer of a write: a carrier-window write is always accepted, any other when the M-side queue holds fewer than 32
forwarded writes; whether the write is accepted (R134). DESIGN CHOICE: within the acceptance the write is forwarded and
its PASS-WRITES reported, with any MONITOR-WRAP, before the tracker's reports, before the post count is handed on
(POST-REJECTED or the fetch) and before the take count is (the freeing of ring places): R43, R137, R141, R164, R167 and
R176 give no order. Unsafe; assumption log entry 23. -/
def State.offerWrite (s : State) (w : UWrite) : State × Bool :=
  if region w.address = .window then (s.dropStray w, true)
  else if s.forwardedWrites < 32 then ((s.forwardWrite w).noteWrite w, true)
  else (s, false)

/-- An offer of a request at the head of the channel (R134). -/
def State.offer (s : State) (h : Held) : State × Bool :=
  match h.request with
  | .read r => s.offerRead r h.waitReported
  | .write w => s.offerWrite w

/-- A request that has been offered and is held: a read has reported its ACCEPT-WAITS (R98, R134). -/
def Held.held (h : Held) : Held :=
  match h.request with
  | .read _ => { h with waitReported := true }
  | .write _ => h

/-- The requests of the channel offered one after another, each after the one before it has been accepted, up to the
first that is held (R134). Assumption log entry 7. -/
def State.offerAll (s : State) : List Held → State
  | [] => { s with channel := { waiting := [], reofferDue := false } }
  | h :: rest =>
    match s.offer h with
    | (t, true) => t.offerAll rest
    | (t, false) => { t with channel := { waiting := h.held :: rest, reofferDue := false } }

/-- A request reaches the part: it is offered when it stands at the head of the channel, and waits behind a held request
otherwise (R134). -/
def State.present (s : State) (q : URequest) : State :=
  match s.channel.waiting with
  | [] => s.offerAll [⟨q, false⟩]
  | waiting => { s with channel := { s.channel with waiting := waiting ++ [⟨q, false⟩] } }

/-- The request at the head of the channel is a read. -/
def Channel.headIsRead (c : Channel) : Bool :=
  match c.waiting with
  | ⟨.read _, _⟩ :: _ => true
  | _ => false

/-- The request at the head of the channel is a write. -/
def Channel.headIsWrite (c : Channel) : Bool :=
  match c.waiting with
  | ⟨.write _, _⟩ :: _ => true
  | _ => false

/-- An entry of a translation table has become FREE: a held read is due to be offered again (R99). -/
def State.noteFreed (s : State) : State :=
  if s.channel.headIsRead then { s with channel := { s.channel with reofferDue := true } } else s

/-- A forwarded write has left the M-side queue: a held write is due to be offered again (R134). -/
def State.noteForwardLeft (s : State) : State :=
  if s.channel.headIsWrite then { s with channel := { s.channel with reofferDue := true } } else s

/-! ## The meanings of the request rows -/

/-- TRIBUTARY_REGION_WRITE (R43). The request's own address decides its class (R133). -/
def execTributaryRegionWrite (w : UWrite) (s : State) : Host.Outcome State Fault Refusal := .next (s.present (.write w))

/-- POST_WORD_WRITE (R141, R146). -/
def execPostWordWrite (w : UWrite) (s : State) : Host.Outcome State Fault Refusal := .next (s.present (.write w))

/-- TAKE_WORD_WRITE (R141, R166). -/
def execTakeWordWrite (w : UWrite) (s : State) : Host.Outcome State Fault Refusal := .next (s.present (.write w))

/-- PASS_WRITE (R137, R142). -/
def execPassWrite (w : UWrite) (s : State) : Host.Outcome State Fault Refusal := .next (s.present (.write w))

/-- STRAY_WRITE (R140). -/
def execStrayWrite (w : UWrite) (s : State) : Host.Outcome State Fault Refusal := .next (s.present (.write w))

/-- CARRIER_WINDOW_READ (R61, R92, R98). -/
def execCarrierWindowRead (r : URead) (s : State) : Host.Outcome State Fault Refusal := .next (s.present (.read r))

/-- PASS_READ (R104, R138). -/
def execPassRead (r : URead) (s : State) : Host.Outcome State Fault Refusal := .next (s.present (.read r))

/-- HELD_READ_REOFFER (R99): a read at the head of the channel is offered again when an entry of either table has become
FREE since its last offer. Otherwise there is nothing to offer. -/
def execHeldReadReoffer (s : State) : Host.Outcome State Fault Refusal :=
  .next (if s.channel.headIsRead && s.channel.reofferDue then s.offerAll s.channel.waiting else s)

/-- HELD_WRITE_REOFFER (R134): a write at the head of the channel is offered again when a forwarded write has left the
M-side queue since its last offer. Otherwise there is nothing to offer. -/
def execHeldWriteReoffer (s : State) : Host.Outcome State Fault Refusal :=
  .next (if s.channel.headIsWrite && s.channel.reofferDue then s.offerAll s.channel.waiting else s)

/-- M_SIDE_REQUEST_TAKEN (R135): the request at the front of the M-side queue leaves it. With an empty queue there is no
request to take. -/
def execMSideRequestTaken (s : State) : Host.Outcome State Fault Refusal :=
  match s.mQueue with
  | [] => .next s
  | r :: rest =>
    let t := { s with mQueue := rest, outputs := { s.outputs with requests := s.outputs.requests ++ [r] } }
    .next (if r.isForwardedWrite then t.noteForwardLeft else t)

end Sys2Proof.Machine
end

