-- ==== Sys2Proof/WellFormed.lean ====
section
/-! DEFINITION. When a term of `Instr` is a command that the outside can give the block. -/

namespace Sys2Proof

/-- The command codes of Figure 12-6. -/
def knownCodes : List Byte :=
  [0x01, 0x02, 0x03, 0x10, 0x11, 0x12, 0x20, 0x21, 0x30, 0x31, 0x32, 0x40, 0x41, 0x50, 0x51, 0x52, 0x7F]

/-- The upstream request that a request row presents. -/
def Instr.request? : Instr → Option Machine.URequest
  | .tributaryRegionWrite w => some (.write w)
  | .postWordWrite w => some (.write w)
  | .takeWordWrite w => some (.write w)
  | .passWrite w => some (.write w)
  | .strayWrite w => some (.write w)
  | .carrierWindowRead r => some (.read r)
  | .passRead r => some (.read r)
  | _ => none

/-- A request row's operands lie in the class that its name says (R133, R141); the grain list field of a map command
has its 64 bytes (Figure 12-3); the code of BAD_CODE names no command (R150). Every other row takes any operands. -/
def Instr.wellFormed (i : Instr) : Bool :=
  match i with
  | .place _ _ _ _ grains => grains.length == 64
  | .regroom _ _ _ _ grains => grains.length == 64
  | .badCode code => !knownCodes.contains code
  | i =>
    match i.request? with
    | some q => Machine.requestRow q == i
    | none => true

/-- A command whose row is well-formed. -/
def Command.wellFormed (c : Command) : Bool := c.row.wellFormed

end Sys2Proof
end

