-- ==== Sys2Proof/Decode.lean ====
section
/-! DEFINITION. The command record: from its 128 bytes to the command it spells, and back (Figures 12-3 to 12-6). And the table's words: spec/opcode_table.json gives no row any bits. -/

namespace Sys2Proof

open Machine

/-- The grain list field of a record: bytes 16 to 79 (Figure 12-3). -/
def grainField (r : Record) : List Byte := (List.range 64).map fun i => recByte r (16 + i)

/-- The fields of a SET-LIMITS record (Figures 12-4 and 12-5). -/
def limitFields (r : Record) : LimitFields where
  applyReadExpiry := recFlag r 0
  applyApplyLimit := recFlag r 1
  applySilence := recFlag r 2
  applyEnter := recFlag r 3
  applyLeave := recFlag r 4
  applyFill := recFlag r 5
  readExpiry := recByte r 8
  applyLimit := recByte r 9
  silence := recByte r 10
  fill := recByte r 11
  enter := BitVec.ofNat 16 (recNat r 12 2)
  leave := BitVec.ofNat 16 (recNat r 14 2)

/-- The fields of a SET-NOTICE record (Figures 12-4 and 12-5). -/
def noticeFields (r : Record) : NoticeFields where
  applyThreshold := recFlag r 0
  kind := recByte r 8
  enable := recByte r 9
  priority := recByte r 10
  threshold := recByte r 11

/-- The fields of a SET-MONITOR record (Figure 12-5). -/
def monitorFields (r : Record) : MonitorFields where
  counter := recByte r 8
  source := recByte r 9
  carrierFilter := (recByte r 10).getLsbD 0
  tribFilter := (recByte r 10).getLsbD 1
  report := (recByte r 10).getLsbD 2
  note := BitVec.ofNat 32 (recNat r 12 4)
  carrierMatch := recByte r 16
  carrierMask := recByte r 17
  tribMatch := BitVec.ofNat 16 (recNat r 18 2)
  tribMask := BitVec.ofNat 16 (recNat r 20 2)
  count := BitVec.ofNat 48 (recNat r 22 6)

/-- The command that a fetched record spells: its code by Figure 12-6, and of the rest of the record only the fields
that the command uses (R149, R182). A code that names no command is BAD_CODE (R150). -/
def Command.ofRecord (r : Record) : Command :=
  let tributary : BitVec 16 := BitVec.ofNat 16 (recNat r 2 2)
  let carrier := recByte r 4
  match (recByte r 0).toNat with
  | 0x01 => .attach tributary (recByte r 5) (recByte r 6) (recByte r 7)
  | 0x02 => .detach tributary
  | 0x03 => .clearCounts tributary
  | 0x10 => .place tributary carrier (recFlag r 0) (recFlag r 1) (grainField r)
  | 0x11 => .regroom tributary carrier (recFlag r 0) (recFlag r 1) (grainField r)
  | 0x12 => .unplace tributary carrier
  | 0x20 => .carrierOn carrier (BitVec.ofNat 16 (recNat r 8 2))
  | 0x21 => .carrierOff carrier
  | 0x30 => .setLimits (limitFields r)
  | 0x31 => .setNotice (noticeFields r)
  | 0x32 => .mark (BitVec.ofNat 32 (recNat r 8 4))
  | 0x40 => .queryTributary tributary
  | 0x41 => .queryCarrier carrier (recByte r 8)
  | 0x50 => .setMonitor (monitorFields r)
  | 0x51 => .readMonitor (recByte r 8)
  | 0x52 => .lockMonitor (recByte r 8)
  | 0x7F => .clearTables
  | _ => .badCode (recByte r 0)

/-- A byte whose low bits are flags, bit 0 first. -/
def flagByte (bits : List Bool) : Byte :=
  BitVec.ofNat 8 (bits.foldr (fun b n => (if b then 1 else 0) + 2 * n) 0)

/-- A record of 128 bytes: code, flags, tributary, carrier, width, target lag and fill byte, then the eight bytes of
command parameters, then the 64 bytes of the grain list field, and zero in the completion area (Figure 12-3). -/
def recordOf (code : Byte) (flags : Byte := 0) (tributary : BitVec 16 := 0) (carrier : Byte := 0)
    (width : Byte := 0) (targetLag : Byte := 0) (fill : Byte := 0)
    (params : List Byte := []) (grains : List Byte := []) : Record :=
  [code, flags] ++ leBytes 2 tributary.toNat ++ [carrier, width, targetLag, fill]
    ++ padTo 8 params ++ padTo 64 grains ++ List.replicate 48 0

/-- The record of a command, with zero in every byte that the command does not use (Figures 12-3 to 12-6). -/
def Command.record : Command → Record
  | .attach t w l f => recordOf 0x01 (tributary := t) (width := w) (targetLag := l) (fill := f)
  | .detach t => recordOf 0x02 (tributary := t)
  | .clearCounts t => recordOf 0x03 (tributary := t)
  | .place t c p sc g => recordOf 0x10 (flags := flagByte [p, sc]) (tributary := t) (carrier := c) (grains := g)
  | .regroom t c p sc g => recordOf 0x11 (flags := flagByte [p, sc]) (tributary := t) (carrier := c) (grains := g)
  | .unplace t c => recordOf 0x12 (tributary := t) (carrier := c)
  | .carrierOn c l => recordOf 0x20 (carrier := c) (params := leBytes 2 l.toNat)
  | .carrierOff c => recordOf 0x21 (carrier := c)
  | .setLimits f =>
    recordOf 0x30
      (flags := flagByte [f.applyReadExpiry, f.applyApplyLimit, f.applySilence, f.applyEnter, f.applyLeave, f.applyFill])
      (params := [f.readExpiry, f.applyLimit, f.silence, f.fill] ++ leBytes 2 f.enter.toNat ++ leBytes 2 f.leave.toNat)
  | .setNotice f =>
    recordOf 0x31 (flags := flagByte [f.applyThreshold]) (params := [f.kind, f.enable, f.priority, f.threshold])
  | .mark v => recordOf 0x32 (params := leBytes 4 v.toNat)
  | .queryTributary t => recordOf 0x40 (tributary := t)
  | .queryCarrier c p => recordOf 0x41 (carrier := c) (params := [p])
  | .setMonitor f =>
    recordOf 0x50
      (params := [f.counter, f.source, flagByte [f.carrierFilter, f.tribFilter, f.report], 0] ++ leBytes 4 f.note.toNat)
      (grains := [f.carrierMatch, f.carrierMask] ++ leBytes 2 f.tribMatch.toNat ++ leBytes 2 f.tribMask.toNat
        ++ leBytes 6 f.count.toNat)
  | .readMonitor n => recordOf 0x51 (params := [n])
  | .lockMonitor n => recordOf 0x52 (params := [n])
  | .clearTables => recordOf 0x7F
  | .badCode code => recordOf code

/-- The command a word spells by the bits of spec/opcode_table.json. The table gives no row any bits ("fields" is empty
and there is no "fixed"), so no word spells a command. -/
def decodeTableWord (_nbits _w : Nat) : Option Instr := none

end Sys2Proof
end

