-- ==== Sys2Proof/Machine/Commands.lean ====
section
/-! DEFINITION. The commands of the command ring: validation and execution of each (Chapters 1, 2, 4, 9, 10 and 11), and the meanings of their rows. -/

namespace Sys2Proof.Machine

/-! ## Tributary commands (Chapter 2) -/

/-- A tributary's record after an admitted ATTACH (R37). -/
def Tributary.attached (tr : Tributary) (width targetLag fill : Byte) : Tributary :=
  { tr with
    state := .idle
    width := width.toNat
    targetLag := clamp 2 5 targetLag.toNat
    fill := fill
    iw := 0
    repeatSlips := 0
    skipSlips := 0
    jumps := 0
    strays := 0 }

/-- ATTACH (R36, R37). -/
def attachCommand (tributary : BitVec 16) (width targetLag fill : Byte) (s : State) : State :=
  match toTrib? tributary with
  | none => s.complete .badField []
  | some t =>
    let tr := s.trib t
    if width.toNat = 0 ∨ 60 < width.toNat then s.complete .badField [tr.state.code]
    else if tr.state ≠ .free then s.complete .wrongState [tr.state.code]
    else
      let new := tr.attached width targetLag fill
      (s.setTrib t new).complete .done [new.state.code, byte new.width, byte new.targetLag, new.fill]

/-- DETACH (R38). -/
def detachCommand (tributary : BitVec 16) (s : State) : State :=
  match toTrib? tributary with
  | none => s.complete .badField []
  | some t =>
    let tr := s.trib t
    if tr.state ≠ .idle then s.complete .wrongState [tr.state.code]
    else if tr.inFlight = 0 then
      ((s.setTrib t { tr with state := .free, width := 0 }).raise (.tribRetired t)).complete .done
        [TribState.free.code, 0]
    else
      (s.setTrib t { tr with state := .retiring, width := 0 }).complete .done
        [TribState.retiring.code, byte tr.inFlight]

/-- A tributary's record with its four saturating counts cleared (R40). -/
def Tributary.cleared (tr : Tributary) : Tributary := { tr with repeatSlips := 0, skipSlips := 0, jumps := 0, strays := 0 }

/-- CLEAR-COUNTS (R40). -/
def clearCountsCommand (tributary : BitVec 16) (s : State) : State :=
  match toTrib? tributary with
  | none => s.complete .badField []
  | some t =>
    let tr := s.trib t
    if tr.state = .free then s.complete .wrongState [tr.state.code]
    else (s.setTrib t tr.cleared).complete .done ([tr.state.code, 0] ++ countBytes tr)

/-! ## Map commands (Chapter 1) -/

/-- Admission: the change becomes the pending change, the carrier's pending flag is set, and the command processor waits
in WAITING-APPLY (R12, R16). -/
def State.admitChange (s : State) (kind : ChangeKind) (t : TribId) (c : CarrierId) (positions : List Position) : State :=
  { s.setCarrier c { s.carrier c with pendingFlag := true } with
    change := some
      { kind := kind
        trib := t
        carrier := c
        positions := positions
        deadline := s.response.microseconds + BitVec.ofNat 32 (16 * s.processor.limits.applyLimit) }
    processor := { s.processor with phase := .waitingApply } }

/-- A tributary has a recorded width, so that step 2 of a map command looks at the position list (R8). -/
def Tributary.hasWidth (tr : Tributary) : Bool := tr.state ≠ .free && tr.state ≠ .retiring

/-- Step 2 for a position list: with PICK clear and a recorded width, the first w bytes are distinct positions (R8). -/
def listFails (tr : Tributary) (pick : Bool) (grains : List Byte) : Bool :=
  !pick && tr.hasWidth && (listedPositions? tr.width grains).isNone

/-- Steps 5 to 7 of PLACE and REGROOM, once steps 2 to 4 have passed: the positions, listed or chosen, then their cost;
the change is admitted or refused (R7, R8, R9, R10, R12). `own` is the placement whose positions count as free. -/
def State.settlePositions (s : State) (kind : ChangeKind) (t : TribId) (c : CarrierId) (own : Option TribId)
    (pick scatter : Bool) (grains : List Byte) : State :=
  let tr := s.trib t
  let r := s.carrier c
  let positions? := if pick then pick? tr.width scatter own r.map else listedPositions? tr.width grains
  match positions? with
  | none => s.complete .noRoom []
  | some positions =>
    if !pick && !(positions.all fun p => isFree own r.map[p]) then s.complete .grainTaken []
    else
      let cost := readCost (changedMap kind t positions r.map)
      if r.costLimit < cost then s.complete .costLimit (mapReply cost r.generation)
      else s.admitChange kind t c positions

/-- PLACE (R13). -/
def placeCommand (tributary : BitVec 16) (carrier : Byte) (pick scatter : Bool) (grains : List Byte) (s : State) :
    State :=
  match toTrib? tributary, toCarrier? carrier with
  | some t, some c =>
    let tr := s.trib t
    if listFails tr pick grains then s.complete .badField []
    else if !(s.carrier c).on || !(tr.state = .idle || tr.state = .active || tr.state = .silent)
        || (tr.placementIn c).isSome then s.complete .wrongState []
    else if 2 ≤ tr.placements.length then s.complete .noRoom []
    else s.settlePositions .place t c none pick scatter grains
  | _, _ => s.complete .badField []

/-- REGROOM (R14). -/
def regroomCommand (tributary : BitVec 16) (carrier : Byte) (pick scatter : Bool) (grains : List Byte) (s : State) :
    State :=
  match toTrib? tributary, toCarrier? carrier with
  | some t, some c =>
    let tr := s.trib t
    if listFails tr pick grains then s.complete .badField []
    else if (tr.placementIn c).isNone then s.complete .wrongState []
    else s.settlePositions .regroom t c (some t) pick scatter grains
  | _, _ => s.complete .badField []

/-- UNPLACE (R15). -/
def unplaceCommand (tributary : BitVec 16) (carrier : Byte) (s : State) : State :=
  match toTrib? tributary, toCarrier? carrier with
  | some t, some c =>
    if ((s.trib t).placementIn c).isNone then s.complete .wrongState []
    else s.admitChange .unplace t c []
  | _, _ => s.complete .badField []

/-! ## Carrier commands (Chapter 4) -/

/-- All indication bytes UNASSIGNED. -/
def noIndications : Vector Indication 240 := Vector.replicate 240 .unassigned

/-- A carrier's record after CARRIER-ON: an ON carrier takes the cost limit only (R56). -/
def Carrier.turnedOn (r : Carrier) (costLimit : Nat) : Carrier :=
  if r.on then { r with costLimit := clamp 8 240 costLimit }
  else { r with on := true, page := none, costLimit := clamp 8 240 costLimit, indications := noIndications }

/-- A carrier's record after an admitted CARRIER-OFF (R57). -/
def Carrier.turnedOff (r : Carrier) : Carrier :=
  { r with on := false, page := none, cost := 0, indications := noIndications }

/-- CARRIER-ON (R56). -/
def carrierOnCommand (carrier : Byte) (costLimit : BitVec 16) (s : State) : State :=
  match toCarrier? carrier with
  | none => s.complete .badField []
  | some c =>
    let new := (s.carrier c).turnedOn costLimit.toNat
    (s.setCarrier c new).complete .done (overheadBytes new)

/-- CARRIER-OFF (R57). -/
def carrierOffCommand (carrier : Byte) (s : State) : State :=
  match toCarrier? carrier with
  | none => s.complete .badField []
  | some c =>
    let r := s.carrier c
    if 0 < r.mapped then s.complete .wrongState (overheadBytes r)
    else (s.setCarrier c r.turnedOff).complete .done (overheadBytes r.turnedOff)

/-! ## Limits and notice (Chapters 9 and 10) -/

/-- A limit after SET-LIMITS: clamped where its apply flag is set, kept otherwise (R153). -/
def applied (flag : Bool) (lo hi value kept : Nat) : Nat := if flag then clamp lo hi value else kept

/-- The limits after SET-LIMITS; the enter margin is applied before the leave margin, which never exceeds it (R153,
Figure 9-5). -/
def Limits.set (l : Limits) (f : LimitFields) : Limits :=
  let enter := applied f.applyEnter 64 768 f.enter.toNat l.enter
  { readExpiry := applied f.applyReadExpiry 1 63 f.readExpiry.toNat l.readExpiry
    applyLimit := applied f.applyApplyLimit 1 255 f.applyLimit.toNat l.applyLimit
    silence := applied f.applySilence 2 15 f.silence.toNat l.silence
    enter := enter
    leave :=
      if f.applyLeave then clamp 0 enter f.leave.toNat
      else if f.applyEnter then min l.leave enter
      else l.leave
    unassignedFill := if f.applyFill then f.fill else l.unassignedFill }

/-- The six limits as SET-LIMITS reports them (Figure 12-9). -/
def limitBytes (l : Limits) : List Byte :=
  [byte l.readExpiry, byte l.applyLimit, byte l.silence, l.unassignedFill] ++ leBytes 2 l.enter ++ leBytes 2 l.leave

/-- SET-LIMITS (R153). -/
def setLimitsCommand (f : LimitFields) (s : State) : State :=
  let limits := s.processor.limits.set f
  { s with processor := { s.processor with limits := limits } }.complete .done (limitBytes limits)

/-- The event writer after an admitted SET-NOTICE (R170). -/
def EventWriter.noticed (w : EventWriter) (k : EventKind) (f : NoticeFields) : EventWriter :=
  let new : EventWriter :=
    { w with
      kinds := w.kinds.set k.index ⟨f.enable ≠ 0, clamp 0 7 f.priority.toNat⟩
      threshold := if f.applyThreshold then clamp 0 7 f.threshold.toNat else w.threshold }
  new.withNotice

/-- The reply of SET-NOTICE: the kind, its settings before and after, the threshold, the untaken records and the level of
the line (R170, Figure 12-9). -/
def noticeBytes (kind : Byte) (before after : KindSetting) (w : EventWriter) : List Byte :=
  [kind, byteOfBool before.enabled, byte before.priority, byteOfBool after.enabled, byte after.priority,
   byte w.threshold] ++ leBytes 2 (w.written - w.taken).toNat ++ [byteOfBool w.notice]

/-- SET-NOTICE (R170). -/
def setNoticeCommand (f : NoticeFields) (s : State) : State :=
  match toKind? f.kind with
  | none => s.complete .badField []
  | some k =>
    let new := s.events.noticed k f
    { s with events := new }.complete .done (noticeBytes f.kind (s.events.setting k) (new.setting k) new)

/-- MARK (R157). -/
def markCommand (value : BitVec 32) (s : State) : State :=
  let t := s.raise (.mark value)
  t.complete .done (leBytes 4 value.toNat ++ leBytes 2 t.events.written.toNat)

/-! ## Queries (Chapter 9) -/

/-- The reply of QUERY-TRIBUTARY (R155, Figures 12-9 and 12-10). -/
def tributaryBytes (tr : Tributary) : List Byte :=
  [tr.state.code, byte tr.width, byte tr.targetLag, tr.fill] ++ leBytes 2 tr.iw.toNat ++ countBytes tr
    ++ [byte tr.inFlight, 0] ++ placementBytes tr.placements[0]? ++ placementBytes tr.placements[1]?

/-- QUERY-TRIBUTARY (R155). -/
def queryTributaryCommand (tributary : BitVec 16) (s : State) : State :=
  match toTrib? tributary with
  | none => s.complete .badField []
  | some t => s.complete .done (tributaryBytes (s.trib t))

/-- The reply of QUERY-CARRIER: the header, then ten entries from the start position on (R156, Figure 12-9). -/
def carrierBytes (r : Carrier) (start : Nat) : List Byte :=
  [byteOfBool r.on, pageByte r.page] ++ leBytes 4 r.cycles.toNat ++ leBytes 2 r.generation.toNat
    ++ [byte r.cost, byte r.costLimit, byte r.mapped, byte start]
    ++ (List.range 10).flatMap fun k => mapEntryBytes (r.map.toList.getD (start + k) none)

/-- QUERY-CARRIER (R156). -/
def queryCarrierCommand (carrier start : Byte) (s : State) : State :=
  match toCarrier? carrier with
  | none => s.complete .badField []
  | some c => s.complete .done (carrierBytes (s.carrier c) start.toNat)

/-! ## Monitor commands (Chapter 11) -/

/-- A counter after an admitted SET-MONITOR: the settings and the count of the record, the lock kept; of the matches and
masks the low 4 and the low 10 bits (R178, R182). -/
def Counter.set (k : Counter) (source : Option OccKind) (f : MonitorFields) : Counter :=
  { source := source
    carrierFilter := f.carrierFilter
    carrierMatch := f.carrierMatch.setWidth 4
    carrierMask := f.carrierMask.setWidth 4
    tribFilter := f.tribFilter
    tribMatch := f.tribMatch.setWidth 10
    tribMask := f.tribMask.setWidth 10
    report := f.report
    note := f.note
    count := f.count
    lock := k.lock }

/-- SET-MONITOR (R178). -/
def setMonitorCommand (f : MonitorFields) (s : State) : State :=
  match toCounter? f.counter, toSource? f.source with
  | some n, some source =>
    let k := s.counter n
    if k.lock then s.complete .locked (counterBytes n k)
    else (s.setCounter n (k.set source f)).complete .done (counterBytes n k)
  | _, _ => s.complete .badField []

/-- READ-MONITOR (R179). -/
def readMonitorCommand (counter : Byte) (s : State) : State :=
  match toCounter? counter with
  | none => s.complete .badField []
  | some n => s.complete .done (counterBytes n (s.counter n))

/-- LOCK-MONITOR (R180). -/
def lockMonitorCommand (counter : Byte) (s : State) : State :=
  match toCounter? counter with
  | none => s.complete .badField []
  | some n =>
    let k := s.counter n
    if k.lock then s.complete .locked (counterBytes n k)
    else (s.setCounter n { k with lock := true }).complete .done (counterBytes n { k with lock := true })

/-! ## CLEAR-TABLES and unknown codes (Chapter 9) -/

/-- A tributary's record after CLEAR-TABLES (R42). -/
def Tributary.emptied (tr : Tributary) : Tributary :=
  { tr with state := if tr.inFlight = 0 then .free else .retiring, width := 0, placements := [] }

/-- A carrier's record and map after CLEAR-TABLES (R26, R71). -/
def Carrier.emptied (r : Carrier) : Carrier :=
  { r with
    on := false
    page := none
    generation := r.generation + 1
    cost := 0
    costLimit := 240
    mapped := 0
    pendingFlag := false
    indications := noIndications
    map := Vector.replicate 240 none }

/-- The tables after CLEAR-TABLES (R158). -/
def State.emptyTables (s : State) : State :=
  { s with
    tributaries := mapTable Tributary.emptied s.tributaries
    carriers := mapTable Carrier.emptied s.carriers }

/-- How many tributaries are RETIRING. -/
def State.retiringCount (s : State) : Nat := countTable (fun tr => tr.state = .retiring) s.tributaries

/-- CLEAR-TABLES (R158). -/
def clearTablesCommand (s : State) : State := s.emptyTables.complete .done [byte s.emptyTables.retiringCount]

/-- A record whose code names no command: BAD-CODE at step 1 (R150). -/
def badCodeCommand (s : State) : State := s.complete .badCode []

/-- A command validated and executed (R150). -/
def State.run (s : State) : Command → State
  | .attach t w l f => attachCommand t w l f s
  | .detach t => detachCommand t s
  | .clearCounts t => clearCountsCommand t s
  | .place t c p sc g => placeCommand t c p sc g s
  | .regroom t c p sc g => regroomCommand t c p sc g s
  | .unplace t c => unplaceCommand t c s
  | .carrierOn c l => carrierOnCommand c l s
  | .carrierOff c => carrierOffCommand c s
  | .setLimits f => setLimitsCommand f s
  | .setNotice f => setNoticeCommand f s
  | .mark v => markCommand v s
  | .queryTributary t => queryTributaryCommand t s
  | .queryCarrier c p => queryCarrierCommand c p s
  | .setMonitor f => setMonitorCommand f s
  | .readMonitor n => readMonitorCommand n s
  | .lockMonitor n => lockMonitorCommand n s
  | .clearTables => clearTablesCommand s
  | .badCode _ => badCodeCommand s

/-! ## The meanings of the command rows

A command row is the GOOD answer of the outstanding fetch with a record of that command (R129, R147, R148). With no
fetch outstanding there is no record to execute and nothing happens: assumption log entry 5. -/

/-- The outstanding fetch hands over a record, and its command runs. -/
def State.underFetch (s : State) (r : Record) (command : State → State) : State :=
  if s.response.fetch.issued then command (s.beginCommand r) else s

/-- ATTACH (R36, R37). -/
def execAttach (tributary : BitVec 16) (width targetLag fill : Byte) (s : State) : Host.Outcome State Fault Refusal :=
  .next (s.underFetch (Command.attach tributary width targetLag fill).record
    (attachCommand tributary width targetLag fill))

/-- DETACH (R38). -/
def execDetach (tributary : BitVec 16) (s : State) : Host.Outcome State Fault Refusal :=
  .next (s.underFetch (Command.detach tributary).record (detachCommand tributary))

/-- CLEAR-COUNTS (R40). -/
def execClearCounts (tributary : BitVec 16) (s : State) : Host.Outcome State Fault Refusal :=
  .next (s.underFetch (Command.clearCounts tributary).record (clearCountsCommand tributary))

/-- PLACE (R13). -/
def execPlace (tributary : BitVec 16) (carrier : Byte) (pick scatter : Bool) (grains : List Byte) (s : State) :
    Host.Outcome State Fault Refusal :=
  .next (s.underFetch (Command.place tributary carrier pick scatter grains).record
    (placeCommand tributary carrier pick scatter grains))

/-- REGROOM (R14). -/
def execRegroom (tributary : BitVec 16) (carrier : Byte) (pick scatter : Bool) (grains : List Byte) (s : State) :
    Host.Outcome State Fault Refusal :=
  .next (s.underFetch (Command.regroom tributary carrier pick scatter grains).record
    (regroomCommand tributary carrier pick scatter grains))

/-- UNPLACE (R15). -/
def execUnplace (tributary : BitVec 16) (carrier : Byte) (s : State) : Host.Outcome State Fault Refusal :=
  .next (s.underFetch (Command.unplace tributary carrier).record (unplaceCommand tributary carrier))

/-- CARRIER-ON (R56). -/
def execCarrierOn (carrier : Byte) (costLimit : BitVec 16) (s : State) : Host.Outcome State Fault Refusal :=
  .next (s.underFetch (Command.carrierOn carrier costLimit).record (carrierOnCommand carrier costLimit))

/-- CARRIER-OFF (R57). -/
def execCarrierOff (carrier : Byte) (s : State) : Host.Outcome State Fault Refusal :=
  .next (s.underFetch (Command.carrierOff carrier).record (carrierOffCommand carrier))

/-- SET-LIMITS (R153). -/
def execSetLimits (fields : LimitFields) (s : State) : Host.Outcome State Fault Refusal :=
  .next (s.underFetch (Command.setLimits fields).record (setLimitsCommand fields))

/-- SET-NOTICE (R170). -/
def execSetNotice (fields : NoticeFields) (s : State) : Host.Outcome State Fault Refusal :=
  .next (s.underFetch (Command.setNotice fields).record (setNoticeCommand fields))

/-- MARK (R157). -/
def execMark (value : BitVec 32) (s : State) : Host.Outcome State Fault Refusal :=
  .next (s.underFetch (Command.mark value).record (markCommand value))

/-- QUERY-TRIBUTARY (R155). -/
def execQueryTributary (tributary : BitVec 16) (s : State) : Host.Outcome State Fault Refusal :=
  .next (s.underFetch (Command.queryTributary tributary).record (queryTributaryCommand tributary))

/-- QUERY-CARRIER (R156). -/
def execQueryCarrier (carrier start : Byte) (s : State) : Host.Outcome State Fault Refusal :=
  .next (s.underFetch (Command.queryCarrier carrier start).record (queryCarrierCommand carrier start))

/-- SET-MONITOR (R178). -/
def execSetMonitor (fields : MonitorFields) (s : State) : Host.Outcome State Fault Refusal :=
  .next (s.underFetch (Command.setMonitor fields).record (setMonitorCommand fields))

/-- READ-MONITOR (R179). -/
def execReadMonitor (counter : Byte) (s : State) : Host.Outcome State Fault Refusal :=
  .next (s.underFetch (Command.readMonitor counter).record (readMonitorCommand counter))

/-- LOCK-MONITOR (R180). -/
def execLockMonitor (counter : Byte) (s : State) : Host.Outcome State Fault Refusal :=
  .next (s.underFetch (Command.lockMonitor counter).record (lockMonitorCommand counter))

/-- CLEAR-TABLES (R158). -/
def execClearTables (s : State) : Host.Outcome State Fault Refusal :=
  .next (s.underFetch Command.clearTables.record clearTablesCommand)

/-- BAD-CODE (R150). A term whose code does name a command is the record of that command with zero in its other fields,
and runs as that command (assumption log entry 5). -/
def execBadCode (code : Byte) (s : State) : Host.Outcome State Fault Refusal :=
  .next (s.underFetch (Command.badCode code).record (·.run (Command.ofRecord (Command.badCode code).record)))

end Sys2Proof.Machine
end

