-- ==== Sys2Proof/Machine/Responses.lean ====
section
/-! DEFINITION. The response unit (Chapter 7): memory responses, expiry, abandonment, release, the fetch, the microsecond count and its deadlines; and the departure of responses. -/

namespace Sys2Proof.Machine

/-! ## The account of a parent (R107, R117, R118, R119, R126) -/

/-- Words written into a word buffer from an offset on and marked filled; words beyond the buffer's end have no place
in it. -/
def fillWords (buffer : List (Option Word)) (first : Nat) (words : List Word) : List (Option Word) :=
  buffer.mapIdx fun i old => if first ≤ i ∧ i < first + words.length then some (words.getD (i - first) 0) else old

/-- The parent holds a malformed PASS read, which uses the store and not the word buffer (R105). -/
def Parent.usesStore (p : Parent) : Bool := p.cls = .pass && !wellFormedRead p.address p.length

/-- A parent with the words of one of its sub-reads (R105, R107). -/
def Parent.withWords (p : Parent) (first : Nat) (words : List Word) : Parent :=
  if p.usesStore then { p with store := words } else { p with words := fillWords p.words first words }

/-- A parent whose outstanding count falls by 1: COMPLETE when it reaches 0 (R107). -/
def Parent.settled (p : Parent) : Parent :=
  { p with
    outstanding := p.outstanding - 1
    state := if p.outstanding ≤ 1 then .complete else p.state }

/-- The words an answer brings: as returned for a malformed PASS read; otherwise exactly as many as the entry's length,
zero words standing for missing ones (R117). DESIGN CHOICE: the words that a memory response carries for a malformed PASS
read of length 0 are passed on too; R105 says both that such a read returns no word and that the words are those that the
memory side returned. Unsafe; assumption log entry 24. -/
def answerWords (p : Parent) (e : SubRead) (words : List Word) : List Word :=
  if p.usesStore then words else words.take e.length ++ List.replicate (e.length - words.length) 0

/-- Whether an answer is taken as a FAULT: a FAULT result, or fewer words than the entry's length (R117). -/
def answerFaults (p : Parent) (e : SubRead) (result : MemResult) (words : List Word) : Bool :=
  result = .fault || (!p.usesStore && words.length < e.length)

/-- A parent after an answer to one of its sub-reads (R107, R117, R118, R125). -/
def Parent.answered (p : Parent) (e : SubRead) (result : MemResult) (words : List Word) : Parent :=
  let q := p.withWords e.first (answerWords p e words)
  (if answerFaults p e result words then { q with status := q.status.rise .error, faults := q.faults + 1 } else q).settled

/-- The word that an expiry fills with: the tributary's fill byte, or 0x00 for a PASS sub-read (R119). -/
def State.expiryWord (s : State) (e : SubRead) : Word :=
  match e.trib with
  | some t => fillWord (s.trib t).fill
  | none => 0

/-- A parent after the expiry of one of its sub-reads (R119, R125). -/
def Parent.expired (p : Parent) (e : SubRead) (fill : Word) : Parent :=
  let q := p.withWords e.first (List.replicate e.length fill)
  { q with status := q.status.rise .late, late := q.late + 1 }.settled

/-- The READ-FAULT event of a parent (R126). -/
def readFault (p : Parent) : Event := .readFault p.carrier p.source p.tag p.status p.late p.faults p.address

/-- The occurrence of an account, if it has one, reported. -/
def State.reportIf (s : State) : Option Occurrence → State
  | some o => s.report o
  | none => s

/-- A parent that has become COMPLETE with a late or a fault count above 0 raises its one READ-FAULT (R126). -/
def State.raiseReadFault (s : State) (p : Parent) : State :=
  if p.state = .complete ∧ 0 < p.late + p.faults then s.raise (readFault p) else s

/-- A parent entry rewritten after one of its sub-reads: the occurrence reported, its READ-FAULT raised when it has
become COMPLETE with one due (R126); and its response may have become ready (R108). -/
def State.accountParent (s : State) (i : Fin 32) (p : Parent) (occurrence : Option Occurrence) : State :=
  (((s.setParent i p).reportIf occurrence).raiseReadFault p).refreshReady

/-! ## Release (R123) -/

/-- A tributary's record after the release of an entry that names it (R34, R35). -/
def Tributary.released (tr : Tributary) : Tributary :=
  { tr with
    inFlight := tr.inFlight - 1
    state := if tr.state = .retiring ∧ tr.inFlight ≤ 1 then .free else tr.state }

/-- The tributary's side of a release: the in-flight count falls by 1, and the last release frees a RETIRING tributary
with TRIB-RETIRED (R35, R123). -/
def State.releaseTrib (s : State) (t : TribId) : State :=
  let tr := s.trib t
  let s := s.setTrib t tr.released
  if tr.state = .retiring ∧ tr.inFlight ≤ 1 then s.raise (.tribRetired t) else s

/-- Release of sub-read entry k (R123). -/
def State.release (s : State) (k : Fin 64) : State :=
  let e := s.sub k
  let s := s.setSub k { e with state := .free }
  let s := match e.trib with
    | some t => s.releaseTrib t
    | none => s
  s.noteFreed

/-! ## Memory responses (R116 to R122, R129) -/

/-- A stale response: discarded whole, with one STALE-RESPONSES occurrence (R122). -/
def State.staleResponse (s : State) : State := s.report ⟨.staleResponses, 1, none, none⟩

/-- The answer to ISSUED entry k (R117, R118). -/
def State.answer (s : State) (k : Fin 64) (result : MemResult) (words : List Word) : State :=
  let e := s.sub k
  let p := s.parent e.parent
  (s.accountParent e.parent (p.answered e result words)
    (if answerFaults p e result words then some ⟨.faultSubreads, 1, e.carrier, e.trib⟩ else none)).release k

/-- A late arrival at EXPIRED entry k (R120). -/
def State.lateArrival (s : State) (k : Fin 64) : State :=
  (s.report ⟨.lateArrivals, 1, (s.sub k).carrier, (s.sub k).trib⟩).release k

/-- A response on the fetch pool (R129, R148). -/
def State.fetchResponse (s : State) (tag : BitVec 16) (result : MemResult) (words : List Word) : State :=
  if tagEntry tag ≠ 0 ∨ !s.response.fetch.issued ∨ s.response.fetch.generation ≠ tagGeneration tag then s.staleResponse
  else if result = .good ∧ 8 ≤ words.length then
    (s.beginCommand (recordOfWords words)).run (Command.ofRecord (recordOfWords words))
  else s.freeFetch.complete .fetchError []

/-- A response on the translation pool, sorted on the entry its M-tag names (R116 steps 3 to 6). -/
def State.subResponse (s : State) (tag : BitVec 16) (result : MemResult) (words : List Word) : State :=
  if h : tagEntry tag < 64 then
    let k : Fin 64 := ⟨tagEntry tag, h⟩
    if (s.sub k).generation ≠ tagGeneration tag then s.staleResponse
    else match (s.sub k).state with
      | .free => s.staleResponse
      | .issued => s.answer k result words
      | .expired => s.lateArrival k
  else s.staleResponse

/-- A memory response sorted by its M-tag (R116). -/
def State.takeResponse (s : State) (tag : BitVec 16) (result : MemResult) (words : List Word) : State :=
  if tagEpoch tag ≠ s.response.epoch then s.staleResponse
  else if tagFetchPool tag then s.fetchResponse tag result words
  else s.subResponse tag result words

/-! ## Deadlines (R114, R115) -/

/-- The expiry time of entry k has been reached, and the entry is still ISSUED (R119). -/
def State.expiryDue (s : State) (k : Fin 64) : Bool :=
  (s.sub k).state = .issued && s.response.microseconds = (s.sub k).issue + BitVec.ofNat 32 (s.sub k).interval

/-- Expiry of ISSUED entry k (R119). -/
def State.expireSub (s : State) (k : Fin 64) : State :=
  let e := s.sub k
  (s.setSub k { e with state := .expired }).accountParent e.parent ((s.parent e.parent).expired e (s.expiryWord e))
    (some ⟨.lateSubreads, 1, e.carrier, e.trib⟩)

/-- The abandonment time of entry k has been reached, and the entry is still EXPIRED (R121). -/
def State.abandonDue (s : State) (k : Fin 64) : Bool :=
  (s.sub k).state = .expired && s.response.microseconds = (s.sub k).issue + BitVec.ofNat 32 (8 * (s.sub k).interval)

/-- Abandonment of EXPIRED entry k (R121). -/
def State.abandonSub (s : State) (k : Fin 64) : State :=
  let e := s.sub k
  (s.raise (.readAbandoned e.carrier e.trib k e.address)).release k

/-- The fetch is outstanding and its expiry time has been reached (R128). -/
def State.fetchDue (s : State) : Bool :=
  s.response.fetch.issued
    && s.response.microseconds = s.response.fetch.issue + BitVec.ofNat 32 s.response.fetch.interval

/-- Expiry of the fetch: the entry becomes FREE and the command completes FETCH-ERROR (R128). -/
def State.expireFetch (s : State) : State := s.freeFetch.complete .fetchError []

/-- The pending change whose deadline has been reached (R18). -/
def State.changeDue (s : State) : Option PendingChange :=
  match s.change with
  | some ch => if s.response.microseconds = ch.deadline then some ch else none
  | none => none

/-- The pending change taken at its deadline, if that has been reached. -/
def State.takeDeadline (s : State) : State :=
  match s.changeDue with
  | some ch => s.applyChange ch .expiry
  | none => s

/-- The fetch's expiry taken, if it has been reached. -/
def State.takeFetchExpiry (s : State) : State := if s.fetchDue then s.expireFetch else s

/-- The expiry of entry k taken, if it has been reached. -/
def State.takeExpiry (s : State) (k : Fin 64) : State := if s.expiryDue k then s.expireSub k else s

/-- The abandonment of entry k taken, if it has been reached. -/
def State.takeAbandonment (s : State) (k : Fin 64) : State := if s.abandonDue k then s.abandonSub k else s

/-- Every deadline that the present count has reached and that has not been taken is taken, so that none is passed over
(R114): the pending change, the fetch, then the entries in order. Assumption log entry 10. -/
def State.takeReached (s : State) : State :=
  (List.finRange 64).foldl (fun s k => (s.takeExpiry k).takeAbandonment k) s.takeDeadline.takeFetchExpiry

/-- The microsecond count raised by 1 (R114). -/
def State.advanceCount (s : State) : State :=
  { s with response := { s.response with microseconds := s.response.microseconds + 1 } }

/-! ## The departure of responses (R108, R109) -/

/-- The response of a COMPLETE parent (R105, R108). -/
def Parent.response (p : Parent) : UResponse where
  source := p.source
  tag := p.tag
  status := p.status
  words := if p.usesStore then p.store else p.words.map (·.getD 0)

/-- The response of entry i leaves: the entry becomes FREE, leaves the front of its source's list and the ready
responses, and the next of its source may be ready at once (R108, R109). -/
def State.depart (s : State) (i : Fin 32) : State :=
  let p := s.parent i
  let s := (s.setParent i { p with state := .free }).setSourceList p.source (s.sourceList p.source).tail
  let s := { s with
    translation := { s.translation with ready := s.translation.ready.tail }
    outputs := { s.outputs with responses := s.outputs.responses ++ [p.response] } }
  s.refreshReady.noteFreed

/-! ## The meanings of the rows -/

/-- MEMORY_RESPONSE (R116). -/
def execMemoryResponse (tag : BitVec 16) (result : MemResult) (words : List Word) (s : State) :
    Host.Outcome State Fault Refusal := .next (s.takeResponse tag result words)

/-- RESPONSE_DEPARTURE (R108, R109): the first of the ready responses leaves. With none ready, none leaves. -/
def execResponseDeparture (s : State) : Host.Outcome State Fault Refusal :=
  match s.translation.ready with
  | i :: _ => .next (s.depart i)
  | [] => .next s

/-- DEADLINE_EXPIRY (R18). Before its time, or with no change pending, nothing happens. -/
def execDeadlineExpiry (s : State) : Host.Outcome State Fault Refusal := .next s.takeDeadline

/-- SUB_READ_EXPIRY (R119). Before its time, or in another state, nothing falls due (R115, Figure 7-1). -/
def execSubReadExpiry (entry : Fin 64) (s : State) : Host.Outcome State Fault Refusal := .next (s.takeExpiry entry)

/-- ABANDONMENT (R121). Before its time, or in another state, nothing falls due (R115, Figure 7-1). -/
def execAbandonment (entry : Fin 64) (s : State) : Host.Outcome State Fault Refusal := .next (s.takeAbandonment entry)

/-- FETCH_EXPIRY (R128). Before its time, or with the entry FREE, nothing falls due. -/
def execFetchExpiry (s : State) : Host.Outcome State Fault Refusal := .next s.takeFetchExpiry

/-- MICROSECOND_COUNT_ADVANCE (R114). -/
def execMicrosecondCountAdvance (s : State) : Host.Outcome State Fault Refusal := .next s.takeReached.advanceCount

end Sys2Proof.Machine
end

