-- ==== Sys2Proof/Machine/Dispatch.lean ====
section
/-! DEFINITION. The meaning of each command: one arm for each constructor of `Instr`. -/

namespace Sys2Proof.Machine

/-- The effect of a command on everything but the queue. -/
def exec (i : Instr) (s : State) : Host.Outcome State Fault Refusal :=
  match i with
  | .hardwareReset => Sys2Proof.Machine.execHardwareReset s
  | .microsecondCountAdvance => Sys2Proof.Machine.execMicrosecondCountAdvance s
  | .tributaryRegionWrite w => Sys2Proof.Machine.execTributaryRegionWrite w s
  | .postWordWrite w => Sys2Proof.Machine.execPostWordWrite w s
  | .takeWordWrite w => Sys2Proof.Machine.execTakeWordWrite w s
  | .passWrite w => Sys2Proof.Machine.execPassWrite w s
  | .strayWrite w => Sys2Proof.Machine.execStrayWrite w s
  | .carrierWindowRead r => Sys2Proof.Machine.execCarrierWindowRead r s
  | .passRead r => Sys2Proof.Machine.execPassRead r s
  | .heldReadReoffer => Sys2Proof.Machine.execHeldReadReoffer s
  | .heldWriteReoffer => Sys2Proof.Machine.execHeldWriteReoffer s
  | .mSideRequestTaken => Sys2Proof.Machine.execMSideRequestTaken s
  | .memoryResponse tag result words => Sys2Proof.Machine.execMemoryResponse tag result words s
  | .responseDeparture => Sys2Proof.Machine.execResponseDeparture s
  | .deadlineExpiry => Sys2Proof.Machine.execDeadlineExpiry s
  | .subReadExpiry entry => Sys2Proof.Machine.execSubReadExpiry entry s
  | .abandonment entry => Sys2Proof.Machine.execAbandonment entry s
  | .fetchExpiry => Sys2Proof.Machine.execFetchExpiry s
  | .attach tributary width targetLag fill => Sys2Proof.Machine.execAttach tributary width targetLag fill s
  | .detach tributary => Sys2Proof.Machine.execDetach tributary s
  | .clearCounts tributary => Sys2Proof.Machine.execClearCounts tributary s
  | .place tributary carrier pick scatter grains => Sys2Proof.Machine.execPlace tributary carrier pick scatter grains s
  | .regroom tributary carrier pick scatter grains => Sys2Proof.Machine.execRegroom tributary carrier pick scatter grains s
  | .unplace tributary carrier => Sys2Proof.Machine.execUnplace tributary carrier s
  | .carrierOn carrier costLimit => Sys2Proof.Machine.execCarrierOn carrier costLimit s
  | .carrierOff carrier => Sys2Proof.Machine.execCarrierOff carrier s
  | .setLimits fields => Sys2Proof.Machine.execSetLimits fields s
  | .setNotice fields => Sys2Proof.Machine.execSetNotice fields s
  | .mark value => Sys2Proof.Machine.execMark value s
  | .queryTributary tributary => Sys2Proof.Machine.execQueryTributary tributary s
  | .queryCarrier carrier start => Sys2Proof.Machine.execQueryCarrier carrier start s
  | .setMonitor fields => Sys2Proof.Machine.execSetMonitor fields s
  | .readMonitor counter => Sys2Proof.Machine.execReadMonitor counter s
  | .lockMonitor counter => Sys2Proof.Machine.execLockMonitor counter s
  | .clearTables => Sys2Proof.Machine.execClearTables s
  | .badCode code => Sys2Proof.Machine.execBadCode code s

end Sys2Proof.Machine
end

