-- ==== Sys2Proof/Safety.lean ====
section
/-! DEFINITION. What counts as a sound state, block by block, and the parts a command leaves alone: the terms in which claims are stated. -/

namespace Sys2Proof.Machine

/-! ## Sound states -/

/-- The event writer is sound: the shadow list holds one priority for each untaken record, at most 1024 of them; the
notice line is asserted exactly when one of them exceeds the threshold; every setting is in its range (R160, R161,
R168). -/
structure EventWriter.Sound (w : EventWriter) : Prop where
  shadow : w.shadow.length = (w.written - w.taken).toNat
  room : w.shadow.length ≤ 1024
  line : w.notice = true ↔ ∃ p ∈ w.shadow, w.threshold < p
  lost : w.lost ≤ 255
  priorities : ∀ p ∈ w.shadow, p ≤ 7
  kinds : ∀ k : Fin 16, w.kinds[k].priority ≤ 7
  threshold : w.threshold ≤ 7

/-- The limits are in their ranges, and the leave margin does not exceed the enter margin (R153, Figure 9-5). -/
structure Limits.Sound (l : Limits) : Prop where
  readExpiry : 1 ≤ l.readExpiry ∧ l.readExpiry ≤ 63
  applyLimit : 1 ≤ l.applyLimit ∧ l.applyLimit ≤ 255
  silence : 2 ≤ l.silence ∧ l.silence ≤ 15
  enter : 64 ≤ l.enter ∧ l.enter ≤ 768
  leave : l.leave ≤ l.enter

/-- The command processor and what it waits for agree, as an event finds them (R147): IDLE with D equal to P and nothing
in progress; FETCHING with the fetch outstanding; WAITING-APPLY with a pending change and the command in progress.
(P − D) mod 65536 never exceeds 256 (R146), and the limits are sound. -/
structure State.ProcessorSound (s : State) : Prop where
  posted : (s.processor.post - s.processor.done).toNat ≤ 256
  limits : s.processor.limits.Sound
  idle : s.processor.phase = .idle →
    s.processor.post = s.processor.done ∧ s.processor.command = none
  busy : s.processor.phase ≠ .idle → s.processor.post ≠ s.processor.done
  phase : s.processor.phase = .idle ∨ s.processor.phase = .fetching ∨ s.processor.phase = .waitingApply
  fetching : s.processor.phase = .fetching ↔ s.response.fetch.issued = true
  waiting : s.processor.phase = .waitingApply ↔ s.change.isSome = true
  command : s.processor.phase = .waitingApply ↔ s.processor.command.isSome = true

/-- A carrier's record agrees with its map: cost and mapped count are those of the map (R6), the cost limit is in its
range (R7), an OFF carrier has no current page and an empty map (R1), and a position's byte is UNASSIGNED exactly when
its map entry is (R65). -/
structure Carrier.Sound (r : Carrier) : Prop where
  cost : r.cost = readCost r.map
  mapped : r.mapped = mappedCount r.map
  costLimit : 8 ≤ r.costLimit ∧ r.costLimit ≤ 240
  off : r.on = false → r.page = none ∧ ∀ i : Fin 240, r.map[i] = none
  bytes : ∀ i : Fin 240, r.indications[i] = .unassigned ↔ r.map[i] = none

/-- Every carrier's record is sound, and its pending flag is set exactly while the pending change targets it; the pending
change targets an ON carrier (R16). -/
structure State.CarriersSound (s : State) : Prop where
  records : ∀ c : CarrierId, (s.carrier c).Sound
  pending : ∀ c : CarrierId, (s.carrier c).pendingFlag = true ↔ ∃ ch, s.change = some ch ∧ ch.carrier = c
  target : ∀ ch, s.change = some ch → (s.carrier ch.carrier).on = true

/-- A placement record of a tributary in the given state is sound: S within 256 to 1536 and the quiet count within 15
(R30, R78, R85), and no fresh mark outside a cycle start (R30). A placement that the next evaluation can still count up
stands below 15. -/
structure Placement.Sound (state : TribState) (p : Placement) : Prop where
  smoothed : 256 ≤ p.smoothed ∧ p.smoothed ≤ 1536
  quiet : p.quiet ≤ 15 ∧ (state = .active → p.restartPending = false → p.quiet ≤ 14)
  fresh : p.fresh = false

/-- A tributary's record is sound: a FREE or RETIRING one has width 0 (R27, R31); any other has a width of 1 to 60 and a
target lag of 2 to 5 (R27); it holds placements exactly when it is ACTIVE or SILENT, at most two, in different carriers
(R29); a FREE one has nothing in flight, and a RETIRING one something (R34, R35). -/
structure Tributary.Sound (tr : Tributary) : Prop where
  unused : tr.state = .free ∨ tr.state = .retiring → tr.width = 0
  used : tr.state = .idle ∨ tr.state = .active ∨ tr.state = .silent →
    1 ≤ tr.width ∧ tr.width ≤ 60 ∧ 2 ≤ tr.targetLag ∧ tr.targetLag ≤ 5
  placed : tr.placements ≠ [] ↔ tr.state = .active ∨ tr.state = .silent
  two : tr.placements.length ≤ 2
  distinct : (tr.placements.map (·.carrier)).Nodup
  placements : ∀ p ∈ tr.placements, p.Sound tr.state
  free : tr.state = .free → tr.inFlight = 0
  retiring : tr.state = .retiring → tr.inFlight ≠ 0

/-- How many sub-read entries in state ISSUED or EXPIRED name tributary t (R34). -/
def State.entriesNaming (s : State) (t : TribId) : Nat :=
  countTable (fun e => e.state ≠ .free && e.trib == some t) s.translation.subReads

/-- Every tributary's record is sound; its in-flight count is the number of ISSUED or EXPIRED entries that name it (R34);
and the pending change finds its tributary as its admission left it (R13, R14, R15, R16). -/
structure State.TributariesSound (s : State) : Prop where
  records : ∀ t : TribId, (s.trib t).Sound
  inFlight : ∀ t : TribId, (s.trib t).inFlight = s.entriesNaming t
  placing : ∀ ch, s.change = some ch → ch.kind = .place →
    ((s.trib ch.trib).state = .idle ∨ (s.trib ch.trib).state = .active ∨ (s.trib ch.trib).state = .silent)
      ∧ (s.trib ch.trib).placements.length < 2 ∧ (s.trib ch.trib).placementIn ch.carrier = none
  moving : ∀ ch, s.change = some ch → ch.kind ≠ .place → (s.trib ch.trib).placementIn ch.carrier ≠ none

/-- The map of every carrier and the placement records agree: a map entry names a tributary with a placement record for
that carrier and a slot below its width, and each slot of each placement stands at one position (R1, R2, R31). The
pending change's positions are distinct, as many as its tributary is wide, and UNASSIGNED or held by the placement that
is regroomed (R8, R9, R16). -/
structure State.MapSound (s : State) : Prop where
  entries : ∀ (c : CarrierId) (i : Fin 240) (e : MapEntry), (s.carrier c).map[i] = some e →
    (s.trib e.trib).placementIn c ≠ none ∧ e.slot < (s.trib e.trib).width
  once : ∀ (c : CarrierId) (i j : Fin 240) (e : MapEntry), (s.carrier c).map[i] = some e →
    (s.carrier c).map[j] = some e → i = j
  owned : ∀ (t : TribId) (c : CarrierId), (s.trib t).placementIn c ≠ none →
    ∀ slot, slot < (s.trib t).width → ∃ i : Fin 240, (s.carrier c).map[i] = some ⟨t, slot⟩
  positions : ∀ ch, s.change = some ch → ch.kind ≠ .unplace →
    ch.positions.Nodup ∧ ch.positions.length = (s.trib ch.trib).width ∧
      ∀ p ∈ ch.positions, ∀ e, (s.carrier ch.carrier).map[p] = some e → ch.kind = .regroom ∧ e.trib = ch.trib

/-- The source lists hold every parent entry that is not FREE, each once and in its own source's list (R95); the ready
responses are exactly the COMPLETE entries that stand first in their lists, each once (R108, R109). -/
structure Translation.ListsSound (tr : Translation) : Prop where
  nodup : ∀ src : Source, tr.lists[src].Nodup
  held : ∀ (src : Source) (i : Fin 32),
    i ∈ tr.lists[src] ↔ tr.parents[i].state ≠ .free ∧ tr.parents[i].source = src
  readyNodup : tr.ready.Nodup
  ready : ∀ i : Fin 32,
    i ∈ tr.ready ↔ tr.parents[i].state = .complete ∧ tr.lists[tr.parents[i].source].head? = some i

/-- How many ISSUED sub-read entries serve parent i. -/
def Translation.issuedFor (tr : Translation) (i : Fin 32) : Nat :=
  countTable (fun e => e.state = .issued && e.parent == i) tr.subReads

/-- A parent's outstanding count is the number of ISSUED sub-reads that serve it; it is OPEN exactly while that is above 0
(R94, R107). -/
def Translation.AccountsSound (tr : Translation) : Prop :=
  ∀ i : Fin 32, tr.parents[i].outstanding = tr.issuedFor i ∧ (tr.parents[i].state = .opened ↔ tr.issuedFor i ≠ 0)

/-! ## What a command completes, and what it leaves alone -/

/-- The completion of the command in progress (R151, R183): from the M-side queue `queue` that the command's own work
left, words 5 to 7 of record D mod 256 and the done word carrying D + 1 are appended; D rises by 1; the command processor
then goes to IDLE, or to FETCHING with the fetch of the next record behind the done word (R128, R148). `s` is the state
the fetch answer found, `t` the state after the event, and `limits` are the limits in effect after the command. -/
def Completes (s t : State) (queue : List MRequest) (code : Completion) (data : List Byte) : Prop :=
  let reply := completionWrites s.processor.done none code data
  let done := s.processor.done + 1
  t.processor.post = s.processor.post ∧ t.processor.done = done ∧ t.processor.command = none ∧
  if done = s.processor.post then
    t.processor.phase = .idle ∧ t.response.fetch = { s.response.fetch with issued := false } ∧
      t.mQueue = queue ++ reply
  else
    t.processor.phase = .fetching ∧
      t.response.fetch =
        { issued := true, generation := s.response.fetch.generation + 1, issue := s.response.microseconds,
          interval := t.processor.limits.readExpiry } ∧
      t.mQueue = queue ++ reply ++
        [.read .own (mTag 0 (s.response.fetch.generation + 1) true s.response.epoch) (recordAddr done) 8]

/-- The tables of tributaries and carriers and the pending change are left alone. -/
def SameTables (s t : State) : Prop :=
  t.tributaries = s.tributaries ∧ t.carriers = s.carriers ∧ t.change = s.change

/-- The event writer and the monitor are left alone. -/
def SameReporting (s t : State) : Prop := t.events = s.events ∧ t.monitor = s.monitor ∧ t.draws = s.draws

/-- What no command touches: the translation unit, the microsecond count and the epoch, the upstream channel, what has
left the part, and the queue of waiting commands. -/
def SameSurroundings (s t : State) : Prop :=
  t.translation = s.translation ∧ t.response.microseconds = s.response.microseconds ∧
    t.response.epoch = s.response.epoch ∧ t.channel = s.channel ∧ t.outputs = s.outputs ∧ t.pending = s.pending

/-- The command processor and the fetch are left alone. -/
def SameProcessor (s t : State) : Prop := t.processor = s.processor ∧ t.response.fetch = s.response.fetch

/-- Every tributary's record but t's is left alone. -/
def SameOtherTribs (s s' : State) (t : TribId) : Prop := ∀ u : TribId, u ≠ t → s'.trib u = s.trib u

/-- Every carrier's record but c's is left alone. -/
def SameOtherCarriers (s t : State) (c : CarrierId) : Prop := ∀ d : CarrierId, d ≠ c → t.carrier d = s.carrier d

/-- The limits are left alone. -/
def SameLimits (s t : State) : Prop := t.processor.limits = s.processor.limits

/-- A command that changes no state of the part beyond its own completion: a query, or one that is refused (R150). -/
def OnlyCompletes (s t : State) (code : Completion) (data : List Byte) : Prop :=
  SameTables s t ∧ SameReporting s t ∧ SameSurroundings s t ∧ SameLimits s t ∧ Completes s t s.mQueue code data

/-- A command that changed tables, the event writer or the monitor, but neither the limits nor what no command touches,
and completes. -/
def CompletesWork (s t : State) (queue : List MRequest) (code : Completion) (data : List Byte) : Prop :=
  SameSurroundings s t ∧ SameLimits s t ∧ Completes s t queue code data

/-- The event writer, the monitor, the draws and the M-side queue of t are those that reporting left in r. -/
def ReportsAs (r t : State) : Prop := SameReporting r t ∧ t.mQueue = r.mQueue

/-- A map command admitted with a position list: it is the pending change of its carrier, with the deadline of R16, and
the command processor waits for the application; nothing is completed and nothing else moves (R12, R16). -/
def Admits (s t : State) (record : Record) (ch : PendingChange) : Prop :=
  t.change = some ch ∧
    ch.deadline = s.response.microseconds + BitVec.ofNat 32 (16 * s.processor.limits.applyLimit) ∧
    t.carrier ch.carrier = { s.carrier ch.carrier with pendingFlag := true } ∧
    SameOtherCarriers s t ch.carrier ∧ t.tributaries = s.tributaries ∧ SameReporting s t ∧ t.mQueue = s.mQueue ∧
    SameSurroundings s t ∧ t.response.fetch = { s.response.fetch with issued := false } ∧
    t.processor = { s.processor with phase := .waitingApply, command := some record }

/-- The application of the pending change ch as one event from s to t, and with it the completion of its command with a
code (R11, R17 to R22, Figure 1-5): the carrier's map, generation, cost, mapped count and pending flag are rewritten; a
PLACE appends its placement record, with the fresh mark as given, and makes an IDLE tributary ACTIVE; a REGROOM keeps the
tributary's record; an UNPLACE removes the placement record, and a tributary with none left becomes IDLE; and the chosen
list of a PICK command is written before the reply. The indication bytes are left to the statement. -/
structure Applies (s t : State) (ch : PendingChange) (code : Completion) (fresh : Bool) : Prop where
  change : t.change = none
  carrier : t.carrier ch.carrier = { s.carrier ch.carrier with
    map := changedMap ch.kind ch.trib ch.positions (s.carrier ch.carrier).map
    generation := (s.carrier ch.carrier).generation + 1
    cost := readCost (changedMap ch.kind ch.trib ch.positions (s.carrier ch.carrier).map)
    mapped := mappedCount (changedMap ch.kind ch.trib ch.positions (s.carrier ch.carrier).map)
    pendingFlag := false
    indications := (t.carrier ch.carrier).indications }
  carriers : SameOtherCarriers s t ch.carrier
  tribs : SameOtherTribs s t ch.trib
  place : ch.kind = .place → t.trib ch.trib = { s.trib ch.trib with
    state := if (s.trib ch.trib).state = .idle then .active else (s.trib ch.trib).state
    placements := (s.trib ch.trib).placements ++
      [{ carrier := ch.carrier, er := (s.trib ch.trib).iw - BitVec.ofNat 16 (s.trib ch.trib).targetLag,
         smoothed := 256 * (s.trib ch.trib).targetLag, drift := .centred, quiet := 0,
         snapshot := (s.trib ch.trib).iw, fresh := fresh, restartPending := false }] }
  regroom : ch.kind = .regroom → t.trib ch.trib = s.trib ch.trib
  unplace : ch.kind = .unplace → t.trib ch.trib = { s.trib ch.trib with
    placements := (s.trib ch.trib).placements.filter fun p => p.carrier ≠ ch.carrier
    state := if ((s.trib ch.trib).placements.filter fun p => p.carrier ≠ ch.carrier) = [] ∧
        ((s.trib ch.trib).state = .active ∨ (s.trib ch.trib).state = .silent) then .idle
      else (s.trib ch.trib).state }
  reporting : SameReporting s t
  surroundings : SameSurroundings s t
  limits : SameLimits s t
  completes :
    let picked := ch.kind ≠ .unplace ∧ ∃ record, s.processor.command = some record ∧ recFlag record 0 = true
    let grains := (List.range 4).map fun i =>
      ownWrite (recordAddr s.processor.done + BitVec.ofNat 32 (16 + 16 * i))
        (wordOfBytes (((padTo 64 (ch.positions.map fun p => BitVec.ofNat 8 p.val)).drop (16 * i)).take 16))
    ∃ own, (picked → own = grains) ∧ (¬picked → own = []) ∧ Completes s t (s.mQueue ++ own) code
      ([BitVec.ofNat 8 (t.carrier ch.carrier).cost, 0] ++ leBytes 2 (t.carrier ch.carrier).generation.toNat)

/-- The bits of byte i of a record that the command processor reads for a command (Figures 12-3 to 12-6, R182): the code,
the flag bits and the fields that the command uses, and, of the grain list field, only the bytes that a list given with
PICK clear puts at the slots of the tributary's width (R8). -/
def bitsRead (s : State) (c : Command) (i : Nat) : Byte :=
  let uses := fun (bytes : List Nat) => if i ∈ bytes then (0xFF : Byte) else 0
  let flags := fun (mask : Byte) => if i = 1 then mask else 0
  let listed := fun (tributary : BitVec 16) =>
    if 16 ≤ i ∧ i < 16 + (toTrib? tributary).elim 0 (fun t => (s.trib t).width) then (0xFF : Byte) else 0
  match c with
  | .attach _ _ _ _ => uses [0, 2, 3, 5, 6, 7]
  | .detach _ => uses [0, 2, 3]
  | .clearCounts _ => uses [0, 2, 3]
  | .place t _ pick _ _ => uses [0, 2, 3, 4] ||| flags 0x03 ||| if pick then 0 else listed t
  | .regroom t _ pick _ _ => uses [0, 2, 3, 4] ||| flags 0x03 ||| if pick then 0 else listed t
  | .unplace _ _ => uses [0, 2, 3, 4]
  | .carrierOn _ _ => uses [0, 4, 8, 9]
  | .carrierOff _ => uses [0, 4]
  | .setLimits _ => uses [0, 8, 9, 10, 11, 12, 13, 14, 15] ||| flags 0x3F
  | .setNotice _ => uses [0, 8, 9, 10, 11] ||| flags 0x01
  | .mark _ => uses [0, 8, 9, 10, 11]
  | .queryTributary _ => uses [0, 2, 3]
  | .queryCarrier _ _ => uses [0, 4, 8]
  | .setMonitor _ =>
    uses [0, 8, 9, 12, 13, 14, 15, 16, 17, 18, 19, 20, 21, 22, 23, 24, 25, 26, 27] ||| if i = 10 then 0x07 else 0
  | .readMonitor _ => uses [0, 8]
  | .lockMonitor _ => uses [0, 8]
  | .clearTables => uses [0]
  | .badCode _ => uses [0]

/-! ## Evaluations -/

/-- The state with the events and occurrences that an evaluation raises, in the order of its steps (R79, R84, R87, R88):
TRIB-SILENT where it declares silence; SLIP and one SLIPS occurrence where it slips; LAG-LOW, LAG-HIGH or LAG-CENTRED where
the drift state moves. -/
def State.withEvaluationReports (s : State) (t : TribId) (c : CarrierId) (tr : Tributary) (e : Evaluation) : State :=
  let silenced := if e.outcome = .silenced then s.raise (.tribSilent t c tr.iw e.placement.er e.placement.quiet) else s
  let slipped := match e.slip with
    | some slip => (silenced.raise (.slip t c slip.size slip.lag)).report ⟨.slips, 1, some c, some t⟩
    | none => silenced
  match e.moved with
  | some .low => slipped.raise (.lagLow t c e.placement.smoothed tr.targetLag e.lag)
  | some .high => slipped.raise (.lagHigh t c e.placement.smoothed tr.targetLag e.lag)
  | some .centred => slipped.raise (.lagCentred t c e.placement.smoothed tr.targetLag e.lag)
  | none => slipped

/-- The tributary's record after an evaluation of its placement in carrier c: the placement record that the evaluation
leaves in its place, SILENT where it declares silence, and the repeat or the skip slip count raised, saturating, at a slip
(R28, R74, R79, R82, R83). -/
def Tributary.afterEvaluation (tr : Tributary) (c : CarrierId) (e : Evaluation) : Tributary :=
  { tr with
    placements := tr.placements.map fun p => if p.carrier = c then e.placement else p
    state := if e.outcome = .silenced then .silent else tr.state
    repeatSlips := if e.outcome = .repeated ∧ tr.repeatSlips ≠ 65535 then tr.repeatSlips + 1 else tr.repeatSlips
    skipSlips := if e.outcome = .skipped ∧ tr.skipSlips ≠ 65535 then tr.skipSlips + 1 else tr.skipSlips }

/-! ## Reads and sub-reads -/

/-- A read that is accepted into parent entry i: what the acceptance leaves alone, and the entry's place in the list of
its source and, when it is COMPLETE and first, among the ready responses (R94, R95, R108). -/
def Accepts (s t : State) (r : URead) (i : Fin 32) : Prop :=
  (∀ j : Fin 32, j ≠ i → t.parent j = s.parent j) ∧
    t.sourceList r.source = s.sourceList r.source ++ [i] ∧
    (∀ src : Source, src ≠ r.source → t.sourceList src = s.sourceList src) ∧
    (t.translation.ready = s.translation.ready ++
      if (t.parent i).state = .complete ∧ s.sourceList r.source = [] then [i] else []) ∧
    t.carriers = s.carriers ∧ t.change = s.change ∧ t.processor = s.processor ∧ t.response = s.response ∧
    t.channel = ⟨[], false⟩ ∧ t.outputs = s.outputs ∧ t.pending = s.pending

/-- The release of entry k, taken from a state whose events and queue are those of r: the entry becomes FREE with its
generation kept; the tributary it names has one entry less in flight, and a RETIRING one with none left becomes FREE
with TRIB-RETIRED; a held read is due to be offered again (R34, R35, R99, R123). -/
def Releases (s r t : State) (k : Fin 64) : Prop :=
  t.sub k = { s.sub k with state := .free } ∧ (∀ l : Fin 64, l ≠ k → t.sub l = s.sub l) ∧
    (∀ u : TribId, (s.sub k).trib ≠ some u → t.trib u = s.trib u) ∧
    (∀ u : TribId, (s.sub k).trib = some u → t.trib u =
      { s.trib u with
        inFlight := (s.trib u).inFlight - 1
        state := if (s.trib u).state = .retiring ∧ (s.trib u).inFlight ≤ 1 then .free else (s.trib u).state }) ∧
    (∀ u : TribId, (s.sub k).trib = some u → (s.trib u).state = .retiring → (s.trib u).inFlight ≤ 1 →
      ReportsAs (r.raise (.tribRetired u)) t) ∧
    ((∀ u : TribId, (s.sub k).trib = some u → (s.trib u).state = .retiring → 1 < (s.trib u).inFlight) →
      ReportsAs r t) ∧
    t.channel.waiting = s.channel.waiting ∧
    (t.channel.reofferDue = true ↔ s.channel.reofferDue = true ∨
      ∃ q b others, s.channel.waiting = ⟨.read q, b⟩ :: others) ∧
    t.carriers = s.carriers ∧ t.change = s.change ∧ t.processor = s.processor ∧ t.response = s.response ∧
    t.outputs = s.outputs ∧ t.pending = s.pending

/-- A read calls for a cycle start: it is a well-formed carrier-window read of an ON carrier whose page field differs from
the current page, or finds it none (R61). -/
abbrev CallsForCycleStart (s : State) (r : URead) : Prop :=
  region r.address = .window ∧ wellFormedRead r.address r.length = true ∧
    (s.carrier (windowCarrier r.address)).on = true ∧
    (s.carrier (windowCarrier r.address)).page ≠ some (windowPage r.address)

/-- The state in which an offered read is classed and cut: after any cycle start that it calls for, all five steps (R61,
R98 step 2). -/
def State.whenOffered (s : State) (r : URead) : State :=
  if CallsForCycleStart s r then s.cycleStart (windowCarrier r.address) (windowPage r.address) else s

/-- The FREE sub-read entries, lowest first (R96). -/
def State.freeSubs (s : State) : List (Fin 64) := (List.finRange 64).filter fun k => (s.sub k).state = .free

/-- The state with one ACCEPT-WAITS occurrence of a held read reported, with the carrier for a carrier-window read (R98). -/
def State.waitReported (s : State) (r : URead) : State :=
  s.report ⟨.acceptWaits, 1, if region r.address = .window then some (windowCarrier r.address) else none, none⟩

/-- A response's M-tag names an entry of one of the two pools, a generation and an epoch; its bits 12 to 15 are not read
(Figure 12-2). -/
abbrev TagNames (tag : BitVec 16) (entry : Nat) (generation : BitVec 2) (fetchPool epoch : Bool) : Prop :=
  (tag.extractLsb' 0 8).toNat = entry ∧ tag.extractLsb' 8 2 = generation ∧ tag.getLsbD 10 = fetchPool ∧
    tag.getLsbD 11 = epoch

/-- The ready responses after an answer to a sub-read of parent i, or its expiry: when this makes the parent COMPLETE and it
stands first in its source's list, it joins them at the end; otherwise they stay (R108, R109). -/
def JoinsReady (s t : State) (i : Fin 32) : Prop :=
  t.translation.ready = s.translation.ready ++
    if (s.parent i).state ≠ .complete ∧ (t.parent i).state = .complete ∧
        (s.sourceList (s.parent i).source).head? = some i then [i]
    else []

/-- The state with the READ-FAULT of a parent raised, when the parent is COMPLETE with its late or fault count above 0
(R126). -/
def faultReported (s : State) (p : Parent) : State :=
  if p.state = .complete ∧ 0 < p.late + p.faults then
    s.raise (.readFault p.carrier p.source p.tag p.status p.late p.faults p.address)
  else s

/-! ## The values of hardware reset -/

/-- The state of every block as hardware reset leaves it, the epoch apart (R25, R41, R70, R91, R112, R130, R144, R159,
R171, R181). -/
structure State.AtReset (s : State) : Prop where
  tributaries : ∀ t : TribId, s.trib t =
    { state := .free, width := 0, targetLag := 0, fill := 0, iw := 0, repeatSlips := 0, skipSlips := 0, jumps := 0,
      strays := 0, inFlight := 0, placements := [] }
  carriers : ∀ c : CarrierId, (s.carrier c).on = false ∧ (s.carrier c).page = none ∧ (s.carrier c).cycles = 0 ∧
    (s.carrier c).generation = 0 ∧ (s.carrier c).cost = 0 ∧ (s.carrier c).costLimit = 240 ∧ (s.carrier c).mapped = 0 ∧
    (s.carrier c).pendingFlag = false
  positions : ∀ (c : CarrierId) (i : Fin 240),
    (s.carrier c).map[i] = none ∧ (s.carrier c).indications[i] = .unassigned
  change : s.change = none
  parents : ∀ i : Fin 32, (s.parent i).state = .free
  subReads : ∀ k : Fin 64, (s.sub k).state = .free ∧ (s.sub k).generation = 0
  lists : ∀ src : Source, s.sourceList src = []
  ready : s.translation.ready = []
  microseconds : s.response.microseconds = 0
  fetch : s.response.fetch = { issued := false, generation := 0, issue := 0, interval := 0 }
  processor : s.processor =
    { post := 0, done := 0, phase := .idle, command := none,
      limits := { readExpiry := 6, applyLimit := 3, silence := 4, enter := 384, leave := 128, unassignedFill := 0 } }
  events : s.events.written = 0 ∧ s.events.taken = 0 ∧ s.events.lost = 0 ∧ s.events.shadow = [] ∧
    s.events.threshold = 0 ∧ s.events.notice = false
  kinds : s.events.kinds.toList = ([5, 4, 3, 2, 2, 1, 3, 1, 5, 6, 5, 4, 3, 6, 3, 0] : List Nat).map fun p => ⟨true, p⟩
  monitor : ∀ k : Fin 8, s.counter k =
    { source := none, carrierFilter := false, carrierMatch := 0, carrierMask := 0, tribFilter := false, tribMatch := 0,
      tribMask := 0, report := false, note := 0, count := 0, lock := false }
  mQueue : s.mQueue = [ownWrite 0x0088_0010#32 0, ownWrite 0x0088_0020#32 0]

end Sys2Proof.Machine
end

