-- ==== Sys2Proof/Certificates/Slice0/Obligations.lean ====
section
/-! DEFINITION. The statements about the model, each named for what it states. The hypothesis `fetch.issued` of a command's statement is that the fetch that hands the record over is outstanding (R147, R148). -/

section Statements

open Sys2Proof Sys2Proof.Machine

/-! ## The step, the queue, the reset -/

/-- One step takes the command at the front of the queue and executes it with the queue's rest; on an empty queue the
block idles, which is the model's choice (assumption log entry 8). -/
def Obligations.StepExecutesFrontCommand : Prop :=
  (∀ (s : State) (c : Instr) (rest : List Instr), s.pending = c :: rest →
    step s = exec c { s with pending := rest }) ∧
  ∀ s : State, s.pending = [] → step s = .next s

/-- Every command answers a next state, and none touches the queue of waiting commands. That no command stops is log entry
16 (DEDUCED: no rule names an event that ends the part's work); the queue is the model's (log entry 20, DESIGN CHOICE). -/
def Obligations.EveryCommandKeepsQueue : Prop :=
  ∀ (i : Instr) (s : State), ∃ t, exec i s = .next t ∧ t.pending = s.pending

/-- Hardware reset gives every block its reset values (R25, R41, R70, R91, R112, R130, R144, R159, R171, R181), inverts the
epoch (R130), and leaves the requests on the upstream channel: they wait as new requests, and a held head is due to be
offered (R112, R144; the flag reofferDue is log entry 9, DESIGN CHOICE). That outputs stay is log entry 4 (DESIGN CHOICE). The
state right after power-up has the same values; its epoch is the model's choice (log entry 1). -/
def Obligations.HardwareResetRestoresEveryBlock : Prop :=
  State.reset.AtReset ∧
  ∀ s : State, ∃ t, exec .hardwareReset s = .next t ∧ t.AtReset ∧ t.response.epoch = !s.response.epoch ∧
    t.channel.waiting = s.channel.waiting.map (fun h => { request := h.request, waitReported := false }) ∧
    (t.channel.reofferDue = true ↔ s.channel.waiting ≠ []) ∧
    t.outputs = s.outputs ∧ t.pending = s.pending

/-! ## Writes -/

/-- A forwarded write that is neither tracked nor a control count is queued as it stands and counted once (R137, R142): the
append first, then PASS-WRITES, which is the model's choice (log entry 23, DESIGN CHOICE). -/
def Obligations.PassWriteForwarded : Prop :=
  ∀ (w : UWrite) (s : State), (Instr.passWrite w).wellFormed = true → s.channel.waiting = [] →
    s.forwardedWrites < 32 →
    exec (.passWrite w) s = .next
      { (s.enqueue [.write .forwarded w.source w.address w.data w.enables]).report ⟨.passWrites, 1, none, none⟩ with
        channel := ⟨[], false⟩ }

/-- A tributary-region write that completes no page: an untracked one, a body write and a partial last write are forwarded
with no other effect (R44, R45); a stray slot write raises the stray count, saturating, with one STRAY-SLOT-WRITES
occurrence and no event (R48). That it comes after the forwarding and its PASS-WRITES is log entry 23 (DESIGN CHOICE). -/
def Obligations.TributaryWriteWithoutCompletion : Prop :=
  ∀ (w : UWrite) (s : State), (Instr.tributaryRegionWrite w).wellFormed = true → s.channel.waiting = [] →
    s.forwardedWrites < 32 →
    let t := tribOf w.address
    let tr := s.trib t
    let tracked := tr.state = .idle ∨ tr.state = .active ∨ tr.state = .silent
    (¬tracked ∨ slotOf w.address + 1 < tr.width ∨
        (slotOf w.address + 1 = tr.width ∧ w.enables.getLsbD 15 = false) →
      exec (.tributaryRegionWrite w) s = .next { s.forwardWrite w with channel := ⟨[], false⟩ }) ∧
    (tracked → tr.width ≤ slotOf w.address →
      exec (.tributaryRegionWrite w) s = .next
        { ((s.forwardWrite w).setTrib t
            { tr with strays := if tr.strays = 65535 then tr.strays else tr.strays + 1 }).report
            ⟨.straySlotWrites, 1, none, some t⟩ with
          channel := ⟨[], false⟩ })

/-- A tracked write to the last slot with byte-enable flag 15 set completes page p. With j = (p − IW) mod 8, IW becomes
IW + j + 1 (R46). On a SILENT tributary it restores: ACTIVE, every placement restart-pending, no jump counted (R49);
otherwise a jump from 1 to 7 raises the jump count, saturating (R47). One INGRESS-PAGES occurrence is reported, and
TRIB-RESTORED or INGRESS-JUMP raised (R47, R49, R50): that the occurrence comes first is log entry 11 (DEDUCED), and both after
the forwarding and its PASS-WRITES log entry 23 (DESIGN CHOICE). -/
def Obligations.PageCompletionAdvancesIngressCount : Prop :=
  ∀ (w : UWrite) (s : State), (Instr.tributaryRegionWrite w).wellFormed = true → s.channel.waiting = [] →
    s.forwardedWrites < 32 →
    let t := tribOf w.address
    let tr := s.trib t
    let p := pageOf w.address
    let j := (p.toNat + 8 - tr.iw.toNat % 8) % 8
    let iw := BitVec.ofNat 16 (tr.iw.toNat + j + 1)
    tr.state = .idle ∨ tr.state = .active ∨ tr.state = .silent → slotOf w.address + 1 = tr.width →
    w.enables.getLsbD 15 = true →
    (tr.state = .silent →
      exec (.tributaryRegionWrite w) s = .next
        { (((s.forwardWrite w).setTrib t
              { tr with
                iw := iw
                state := .active
                placements := tr.placements.map fun q => { q with restartPending := true } }).report
              ⟨.ingressPages, 1, none, some t⟩).raise (.tribRestored t tr.iw iw tr.placements.length) with
          channel := ⟨[], false⟩ }) ∧
    (tr.state ≠ .silent → j = 0 →
      exec (.tributaryRegionWrite w) s = .next
        { ((s.forwardWrite w).setTrib t { tr with iw := iw }).report ⟨.ingressPages, 1, none, some t⟩ with
          channel := ⟨[], false⟩ }) ∧
    (tr.state ≠ .silent → j ≠ 0 →
      exec (.tributaryRegionWrite w) s = .next
        { (((s.forwardWrite w).setTrib t
              { tr with iw := iw, jumps := if tr.jumps = 65535 then tr.jumps else tr.jumps + 1 }).report
              ⟨.ingressPages, 1, none, some t⟩).raise (.ingressJump t p (BitVec.ofNat 3 j) tr.iw) with
          channel := ⟨[], false⟩ })

/-- A post-word write is forwarded, and its count is taken when it lies within 256 of D, and in any processor state but
IDLE at least 1 beyond it; from IDLE a count that differs from D issues the fetch of record D mod 256; any other count is
rejected with POST-REJECTED and P stays (R141, R146, R148). That PASS-WRITES comes before the count is handed on is log entry
23 (DESIGN CHOICE). -/
def Obligations.PostCountTakenOrRejected : Prop :=
  ∀ (w : UWrite) (s : State), (Instr.postWordWrite w).wellFormed = true → s.channel.waiting = [] →
    s.forwardedWrites < 32 →
    let f := s.forwardWrite w
    let count : BitVec 16 := w.data.extractLsb' 0 16
    let p := s.processor
    let ahead := (count - p.done).toNat
    let taken := ahead ≤ 256 ∧ (p.phase = .idle ∨ 1 ≤ ahead)
    (¬taken →
      exec (.postWordWrite w) s = .next { f.raise (.postRejected count p.done p.post) with channel := ⟨[], false⟩ }) ∧
    (taken → p.phase = .idle ∧ count ≠ p.done →
      exec (.postWordWrite w) s = .next
        { f with
          channel := ⟨[], false⟩
          processor := { p with post := count, phase := .fetching }
          response := { s.response with fetch :=
            { issued := true, generation := s.response.fetch.generation + 1, issue := s.response.microseconds,
              interval := p.limits.readExpiry } }
          mQueue := f.mQueue ++
            [.read .own (mTag 0 (s.response.fetch.generation + 1) true s.response.epoch)
              (BitVec.ofNat 32 (0x0088_8000 + p.done.toNat % 256 * 0x80)) 8] }) ∧
    (taken → ¬(p.phase = .idle ∧ count ≠ p.done) →
      exec (.postWordWrite w) s = .next { f with channel := ⟨[], false⟩, processor := { p with post := count } })

/-- A take-word write is forwarded, and its count T′ is taken when (T′ − T) mod 65536 is at most the number of untaken
records: so many entries leave the front of the shadow list, T becomes T′, and the notice line is set from the list and
the threshold. Any other count is ignored (R141, R166, R168). That PASS-WRITES, whose MONITOR-WRAP may find the ring full,
comes before the take is log entry 23 (DESIGN CHOICE). -/
def Obligations.TakeCountTakenOrIgnored : Prop :=
  ∀ (w : UWrite) (s : State), (Instr.takeWordWrite w).wellFormed = true → s.channel.waiting = [] →
    s.forwardedWrites < 32 →
    let f := s.forwardWrite w
    let count : BitVec 16 := w.data.extractLsb' 0 16
    let a := (count - f.events.taken).toNat
    let u := (f.events.written - f.events.taken).toNat
    (a ≤ u → ∃ t, exec (.takeWordWrite w) s = .next t ∧
      t = { f with channel := ⟨[], false⟩, events := t.events } ∧
      t.events = { f.events with taken := count, shadow := f.events.shadow.drop a, notice := t.events.notice } ∧
      (t.events.notice = true ↔ ∃ q ∈ f.events.shadow.drop a, f.events.threshold < q)) ∧
    (u < a → exec (.takeWordWrite w) s = .next { f with channel := ⟨[], false⟩ })

/-- A write in the carrier window is accepted whenever it stands at the head of the channel, whatever the M-side queue
holds, and never held. It is not forwarded: all it does is one STRAY-WRITE event with its source, its address and the
carrier the address names, and no tributary. With the kind disabled it is dropped the same (R140). -/
def Obligations.StrayWriteDropped : Prop :=
  ∀ (w : UWrite) (s : State), (Instr.strayWrite w).wellFormed = true →
    let c : CarrierId := Fin.ofNat 16 ((w.address.toNat - 0x0080_0000) / 0x8000)
    let e : Event := .strayWrite c w.source w.address
    e.carrier = some c ∧ e.trib = none ∧
    (∀ (b : Bool) (rest : List Held), s.offerAll (⟨.write w, b⟩ :: rest) = (s.raise e).offerAll rest) ∧
    (s.channel.waiting = [] → exec (.strayWrite w) s = .next { s.raise e with channel := ⟨[], false⟩ }) ∧
    (s.channel.waiting = [] → (s.events.setting .strayWrite).enabled = false →
      exec (.strayWrite w) s = .next { s with channel := ⟨[], false⟩ })

/-- A request waits behind a held request; a forwarded write is held while the M-side queue holds 32 forwarded writes
(R134). A read is held while no parent entry is FREE, and then takes no cycle start; with a parent entry FREE, a PASS read
is held while no sub-read entry is FREE, and a TRANSLATED read while fewer are FREE than it has pieces under the map, the
tributary states and the marks as any cycle start that it calls for leaves them; that cycle start stands (R61, R97, R98). A
held read reports one ACCEPT-WAITS occurrence, with the carrier for a carrier-window read (R98). A held request has no other
effect. -/
def Obligations.RequestHeldOnChannel : Prop :=
  ∀ (q : URequest) (s : State),
    (∀ h rest, s.channel.waiting = h :: rest →
      exec (requestRow q) s = .next
        { s with channel := { s.channel with waiting := s.channel.waiting ++ [⟨q, false⟩] } }) ∧
    (∀ w, q = .write w → region w.address ≠ .window → s.channel.waiting = [] → 32 ≤ s.forwardedWrites →
      exec (requestRow q) s = .next { s with channel := ⟨[⟨q, false⟩], false⟩ }) ∧
    (∀ r, q = .read r → s.channel.waiting = [] → (∀ i : Fin 32, (s.parent i).state ≠ .free) →
      exec (requestRow q) s = .next
        { s.report ⟨.acceptWaits, 1, if region r.address = .window then some (windowCarrier r.address) else none,
            none⟩ with
          channel := ⟨[⟨q, true⟩], false⟩ }) ∧
    (∀ r, q = .read r → s.channel.waiting = [] → (∃ i : Fin 32, (s.parent i).state = .free) →
      region r.address ≠ .window → (∀ k : Fin 64, (s.sub k).state ≠ .free) →
      exec (requestRow q) s = .next
        { s.report ⟨.acceptWaits, 1, none, none⟩ with channel := ⟨[⟨q, true⟩], false⟩ }) ∧
    ∀ r, q = .read r → s.channel.waiting = [] → (∃ i : Fin 32, (s.parent i).state = .free) →
      region r.address = .window → wellFormedRead r.address r.length = true → windowPosition r.address < 240 →
      (s.carrier (windowCarrier r.address)).on = true →
      (s.whenOffered r).freeSubs.length < (cutPieces 0 ((s.whenOffered r).wordKinds r)).length →
      exec (requestRow q) s = .next
        { (s.whenOffered r).report ⟨.acceptWaits, 1, some (windowCarrier r.address), none⟩ with
          channel := ⟨[⟨q, true⟩], false⟩ }

/-! ## Reads -/

/-- A well-formed payload read of an OFF carrier takes the lowest FREE parent entry, is filled with the unassigned fill byte,
status OK, and is COMPLETE at once; it takes no cycle start and reports CARRIER-READS and FILL-WORDS-UNASSIGNED (R59, R94,
R106). That CARRIER-READS comes first is log entry 11 (DEDUCED). -/
def Obligations.OffCarrierReadFilled : Prop :=
  ∀ (r : URead) (s : State) (i : Fin 32), s.channel.waiting = [] → s.translation.ListsSound →
    region r.address = .window → wellFormedRead r.address r.length = true → windowPosition r.address < 240 →
    (s.carrier (windowCarrier r.address)).on = false →
    (s.parent i).state = .free → (∀ j : Fin 32, j < i → (s.parent j).state ≠ .free) →
    ∃ t, exec (.carrierWindowRead r) s = .next t ∧
      t.parent i =
        { state := .complete, source := r.source, tag := r.tag, address := r.address, length := r.length,
          cls := .offCarrier, carrier := some (windowCarrier r.address),
          words := List.replicate r.length.toNat
            (some (wordOfBytes (List.replicate 16 s.processor.limits.unassignedFill))),
          store := [], status := .ok, outstanding := 0, late := 0, faults := 0 } ∧
      Accepts s t r i ∧ t.translation.subReads = s.translation.subReads ∧ t.tributaries = s.tributaries ∧
      ReportsAs ((s.report ⟨.carrierReads, 1, some (windowCarrier r.address), none⟩).report
        ⟨.fillWordsUnassigned, r.length.toNat, some (windowCarrier r.address), none⟩) t

/-- A well-formed overhead read takes any cycle start that it calls for, and then its words from the carrier record and the
indication bytes as that cycle start's step 5 left them, all at one instant, status OK, COMPLETE at once, reporting nothing
of its own (R60, R61, R68, R106). Word 240 holds the bytes of the carrier record, and byte j of word 241 + m the indication
byte of position 16m + j (Figures 4-2 and 12-12, section 12.5). -/
def Obligations.OverheadReadAnswered : Prop :=
  ∀ (r : URead) (s : State) (i : Fin 32), s.channel.waiting = [] → s.translation.ListsSound →
    region r.address = .window → wellFormedRead r.address r.length = true → 240 ≤ windowPosition r.address →
    (s.parent i).state = .free → (∀ j : Fin 32, j < i → (s.parent j).state ≠ .free) →
    let u := s.whenOffered r
    let k := u.carrier (windowCarrier r.address)
    let image : List Byte := leBytes 4 k.cycles.toNat ++ leBytes 2 k.generation.toNat ++
      [match k.page with
        | some p => BitVec.ofNat 8 p.toNat
        | none => 0xFF,
        if k.on then 1 else 0, BitVec.ofNat 8 k.mapped, BitVec.ofNat 8 k.cost, BitVec.ofNat 8 k.costLimit,
        if k.pendingFlag then 1 else 0, 0, 0, 0, 0]
    let shown := fun position : Nat => match k.indications[position]? with
      | some .normal => (1 : Byte)
      | some .fresh => 2
      | some .moved => 3
      | some .repeated => 4
      | some .skipped => 5
      | some .alarm => 6
      | some .restart => 7
      | some .unassigned => 0
      | none => 0
    let word := fun n : Nat =>
      wordOfBytes (if n = 240 then image else (List.range 16).map fun j => shown (16 * (n - 241) + j))
    ∃ t, exec (.carrierWindowRead r) s = .next t ∧
      t.parent i =
        { state := .complete, source := r.source, tag := r.tag, address := r.address, length := r.length,
          cls := .overhead, carrier := some (windowCarrier r.address),
          words := (List.range r.length.toNat).map fun n => some (word (windowPosition r.address + n)),
          store := [], status := .ok, outstanding := 0, late := 0, faults := 0 } ∧
      Accepts u t r i ∧ u.translation = s.translation ∧ t.translation.subReads = s.translation.subReads ∧
      t.tributaries = u.tributaries ∧ ReportsAs u t

/-- A malformed read in the carrier window is COMPLETE at once with status ERROR and no words; it takes no cycle start,
whatever its page field, and raises one MALFORMED-REQUEST (R106, R139). -/
def Obligations.MalformedReadAnsweredWithError : Prop :=
  ∀ (r : URead) (s : State) (i : Fin 32), s.channel.waiting = [] → s.translation.ListsSound →
    region r.address = .window → wellFormedRead r.address r.length = false →
    (s.parent i).state = .free → (∀ j : Fin 32, j < i → (s.parent j).state ≠ .free) →
    ∃ t, exec (.carrierWindowRead r) s = .next t ∧
      t.parent i =
        { state := .complete, source := r.source, tag := r.tag, address := r.address, length := r.length,
          cls := .malformed, carrier := some (windowCarrier r.address), words := [], store := [], status := .error,
          outstanding := 0, late := 0, faults := 0 } ∧
      Accepts s t r i ∧ t.translation.subReads = s.translation.subReads ∧ t.tributaries = s.tributaries ∧
      ReportsAs (s.raise (.malformedRequest (windowCarrier r.address) r.source r.tag r.length r.address)) t

/-- A read outside the carrier window, well-formed or not, takes the lowest FREE parent entry and the lowest FREE
sub-read entry, and is forwarded with its own address and length under that entry's new M-tag; it names no tributary and
reports PASS-READS (R96, R104, R105, R138), after the M-side read is appended, which is the model's choice (log entry 23,
DESIGN CHOICE). -/
def Obligations.PassReadForwarded : Prop :=
  ∀ (r : URead) (s : State) (i : Fin 32) (k : Fin 64), s.channel.waiting = [] → s.translation.ListsSound →
    region r.address ≠ .window →
    (s.parent i).state = .free → (∀ j : Fin 32, j < i → (s.parent j).state ≠ .free) →
    (s.sub k).state = .free → (∀ l : Fin 64, l < k → (s.sub l).state ≠ .free) →
    let generation := (s.sub k).generation + 1
    let queued := s.enqueue
      [.read .forwarded (mTag k.val generation false s.response.epoch) r.address r.length]
    ∃ t, exec (.passRead r) s = .next t ∧
      t.parent i =
        { state := .opened, source := r.source, tag := r.tag, address := r.address, length := r.length,
          cls := .pass, carrier := none,
          words := if wellFormedRead r.address r.length then List.replicate r.length.toNat none else [],
          store := [], status := .ok, outstanding := 1, late := 0, faults := 0 } ∧
      t.sub k =
        { state := .issued, generation := generation, parent := i, first := 0, length := r.length.toNat, trib := none,
          carrier := none, address := r.address, issue := s.response.microseconds,
          interval := s.processor.limits.readExpiry } ∧
      (∀ l : Fin 64, l ≠ k → t.sub l = s.sub l) ∧
      Accepts s t r i ∧ t.tributaries = s.tributaries ∧
      ReportsAs (queued.report ⟨.passReads, 1, none, none⟩) t

/-- A TRANSLATED read that finds enough FREE entries is cut along the map as any cycle start that it calls for leaves it:
words of fill are filled at once, each piece takes one of the lowest FREE sub-read entries in order and is read at
t × 0x2000 + page × 0x400 + slot × 0x10, each raising its tributary's in-flight count by 1 (R61, R96, R98, R100, R101, R102). It
reports CARRIER-READS; FILL-WORDS-ALARM for each tributary filled under ALARM, with its words, in some order;
FILL-WORDS-UNASSIGNED with their number, if any; and SUB-READS for each piece, after its M-side read (R102, R103). That these
kinds come in this order is log entry 11 (DEDUCED); that each M-side read comes before its own occurrence and behind
CARRIER-READS and the fill occurrences is log entry 23 (DESIGN CHOICE). -/
def Obligations.TranslatedReadCut : Prop :=
  ∀ (r : URead) (s : State) (i : Fin 32), s.channel.waiting = [] → s.translation.ListsSound →
    region r.address = .window → wellFormedRead r.address r.length = true → windowPosition r.address < 240 →
    let c := windowCarrier r.address
    (s.carrier c).on = true →
    (s.parent i).state = .free → (∀ j : Fin 32, j < i → (s.parent j).state ≠ .free) →
    let u := s.whenOffered r
    let kinds := u.wordKinds r
    let pieces := cutPieces 0 kinds
    let free := u.freeSubs
    let address := fun p : Piece => BitVec.ofNat 32 (p.trib.val * 0x2000 + p.page.toNat * 0x400 + p.slot * 0x10)
    let tagOf := fun k : Fin 64 => mTag k.val ((s.sub k).generation + 1) false s.response.epoch
    pieces.length ≤ free.length →
    ∃ t, exec (.carrierWindowRead r) s = .next t ∧
      t.parent i =
        { state := if pieces = [] then .complete else .opened, source := r.source, tag := r.tag, address := r.address,
          length := r.length, cls := .translated, carrier := some c,
          words := kinds.map fun kind => match kind with
            | .unassigned => some (wordOfBytes (List.replicate 16 s.processor.limits.unassignedFill))
            | .alarm v => some (wordOfBytes (List.replicate 16 (s.trib v).fill))
            | .read _ _ _ => none,
          store := [], status := if ∃ v, .alarm v ∈ kinds then .alarm else .ok, outstanding := pieces.length,
          late := 0, faults := 0 } ∧
      (∀ n (hn : n < pieces.length) (hf : n < free.length),
        let p := pieces[n]
        let k := free[n]
        t.sub k =
          { state := .issued, generation := (s.sub k).generation + 1, parent := i, first := p.first, length := p.length,
            trib := some p.trib, carrier := some c, address := address p,
            issue := s.response.microseconds, interval := s.processor.limits.readExpiry }) ∧
      (∀ k : Fin 64, k ∉ free.take pieces.length → t.sub k = s.sub k) ∧ u.translation = s.translation ∧
      (∀ v : TribId, t.trib v =
        { u.trib v with inFlight := (u.trib v).inFlight + pieces.countP fun p => p.trib == v }) ∧
      t.forwardedWrites = s.forwardedWrites ∧ Accepts u t r i ∧
      ∃ (alarms : List TribId) (draws : Nat), alarms.Nodup ∧ (∀ v, v ∈ alarms ↔ .alarm v ∈ kinds) ∧
        let fills : List Occurrence :=
          alarms.map (fun v => ⟨.fillWordsAlarm, kinds.countP fun kind => kind == .alarm v, some c, some v⟩) ++
            if .unassigned ∈ kinds then
              [⟨.fillWordsUnassigned, kinds.countP fun kind => kind == .unassigned, some c, none⟩]
            else []
        let filled := (⟨.carrierReads, 1, some c, none⟩ :: fills).foldl State.report { u with draws := draws }
        ReportsAs ((List.zip pieces free).foldl (fun x pk =>
          (x.enqueue [.read .own (tagOf pk.2) (address pk.1) (BitVec.ofNat 8 pk.1.length)]).report
            ⟨.subReads, 1, some c, some pk.1.trib⟩) filled) t

/-- The pieces of a read cover its read positions, each once and in order, slot after slot within one block of 8 slots of
one page; a fill position belongs to none; and two consecutive read positions of one tributary, the second slot the first
plus 1 and not a multiple of 8, stand in one piece (R4, R101). Every position of one placement shows one page. -/
def Obligations.PiecesCoverReadPositions : Prop :=
  ∀ kinds : List WordKind,
    (∀ t slot slot' page page', .read t slot page ∈ kinds → .read t slot' page' ∈ kinds → page = page') →
    (cutPieces 0 kinds).flatMap (fun p => (List.range p.length).map fun j => (p.first + j, p.trib, p.slot + j, p.page)) =
      kinds.zipIdx.filterMap (fun kn => match kn.1 with
        | .read t slot page => some (kn.2, t, slot, page)
        | _ => none) ∧
    (∀ p ∈ cutPieces 0 kinds, 1 ≤ p.length ∧ p.slot / 8 = (p.slot + p.length - 1) / 8) ∧
    ∀ n t slot page page', kinds[n]? = some (.read t slot page) → kinds[n + 1]? = some (.read t (slot + 1) page') →
      (slot + 1) % 8 ≠ 0 → ∃ p ∈ cutPieces 0 kinds, p.first ≤ n ∧ n + 1 < p.first + p.length

/-- A well-formed carrier-window read of an ON carrier with a page field new to it, offered with a parent entry FREE, takes
a cycle start and is then taken as it would be after that cycle start. Steps 1 and 2: the current page becomes its page
field, CARRIER-PAGE-JUMP is raised where that does not follow an old page, and the cycle count rises by 1 with one
CYCLE-STARTS occurrence (R61, R62, R63; their order is log entry 11, DEDUCED). Step 3: a pending change of the carrier, and
no other, is applied and its command completes DONE (R11, R17, R19 to R22; before step 4 by log entry 6, DEDUCED). Step 4:
each placement of the carrier is evaluated once, in some order, and no other record moves (R62, R74); that the reports of
one evaluation stay together is log entry 3 (DESIGN CHOICE). -/
def Obligations.NewPageFieldTakesCycleStart : Prop :=
  ∀ (r : URead) (s : State), s.channel.waiting = [] → region r.address = .window →
    wellFormedRead r.address r.length = true →
    let c := windowCarrier r.address
    let p := windowPage r.address
    (s.carrier c).on = true → (s.carrier c).page ≠ some p →
    (∃ i : Fin 32, (s.parent i).state = .free) →
    (∃ t, exec (.carrierWindowRead r) s = .next t ∧
      (t.carrier c).page = some p ∧ (t.carrier c).cycles = (s.carrier c).cycles + 1 ∧
      (∀ d : CarrierId, d ≠ c → t.carrier d = { s.carrier d with indications := (t.carrier d).indications }) ∧
      ((∀ ch, s.change = some ch → ch.carrier ≠ c) →
        t.change = s.change ∧ t.processor = s.processor ∧
          t.carrier c = { s.carrier c with
            page := some p, cycles := (s.carrier c).cycles + 1, indications := (t.carrier c).indications }) ∧
      ∀ ch, s.change = some ch → ch.carrier = c →
        let m := changedMap ch.kind ch.trib ch.positions (s.carrier c).map
        t.change = none ∧ t.processor.done = s.processor.done + 1 ∧
          t.carrier c = { s.carrier c with
            page := some p, cycles := (s.carrier c).cycles + 1, map := m,
            generation := (s.carrier c).generation + 1, cost := readCost m, mapped := mappedCount m,
            pendingFlag := false, indications := (t.carrier c).indications }) ∧
    let u := s.cycleStart c p
    exec (.carrierWindowRead r) s = exec (.carrierWindowRead r) u ∧
    u.translation = s.translation ∧ u.channel = s.channel ∧ u.outputs = s.outputs ∧ u.pending = s.pending ∧
    ∃ v w : State,
      let jumped := match (s.carrier c).page with
        | some q => if p = q + 1 then s else s.raise (.carrierPageJump c q p (p - q - 1))
        | none => s
      ReportsAs (jumped.report ⟨.cycleStarts, 1, some c, none⟩) v ∧
      v = { s with
        carriers := v.carriers, events := v.events, monitor := v.monitor, draws := v.draws, mQueue := v.mQueue } ∧
      v.carrier c = { s.carrier c with page := some p, cycles := (s.carrier c).cycles + 1 } ∧
      SameOtherCarriers s v c ∧
      ((∀ ch, s.change = some ch → ch.carrier ≠ c) → w = v) ∧
      (∀ ch, s.ProcessorSound → s.change = some ch → ch.carrier = c → Applies v w ch .done true) ∧
      (∀ x : TribId,
        ((w.trib x).placementIn c = none → u.trib x = w.trib x) ∧
        ∀ q, (w.trib x).placementIn c = some q →
          u.trib x = (w.trib x).afterEvaluation c (evaluation s.processor.limits (w.trib x) q)) ∧
      ∃ (order : List TribId) (draws : Nat), order.Nodup ∧
        (∀ x, x ∈ order ↔ (w.trib x).placementIn c ≠ none) ∧
        u = { order.foldl (fun y x => y.evaluate c x) { w with draws := draws } with carriers := u.carriers }

/-- At a cycle start each position of the carrier takes its indication byte anew, under the map and the records (`before`) as
step 3 left them:
UNASSIGNED without an entry; ALARM when its tributary is SILENT or its placement restart-pending after step 4; otherwise
REPEAT, SKIP or RESTART by the outcome of the placement's evaluation; otherwise FRESH where step 3 applied a PLACE that made
its entry, and MOVED where it applied a REGROOM that wrote its entry differently; NORMAL for the rest (R23, R65, R66, R88). In
every other carrier the positions of a tributary that step 4 makes SILENT take ALARM, and no other byte is written (R67). -/
def Obligations.CycleStartWritesIndications : Prop :=
  ∀ (s : State) (c : CarrierId) (p : BitVec 3),
    let before := fun x : TribId => match s.change with
      | some ch => if ch.carrier = c ∧ ch.trib = x then (s.trib x).applied ch.kind c .cycleStart else s.trib x
      | none => s.trib x
    let t := s.cycleStart c p
    (∀ x, ((before x).placements.map (·.carrier)).Nodup) →
    (∀ i : Fin 240,
      match (t.carrier c).map[i] with
      | none => (t.carrier c).indications[i] = .unassigned
      | some e =>
        if (t.trib e.trib).state = .silent ∨
            ∃ q ∈ (t.trib e.trib).placements, q.carrier = c ∧ q.restartPending = true then
          (t.carrier c).indications[i] = .alarm
        else
          ∀ q ∈ (before e.trib).placements, q.carrier = c →
            let byte := (t.carrier c).indications[i]
            let outcome := (evaluation s.processor.limits (before e.trib) q).outcome
            (outcome = .repeated → byte = .repeated) ∧ (outcome = .skipped → byte = .skipped) ∧
            (outcome = .restart → byte = .restart) ∧
            (outcome ≠ .repeated → outcome ≠ .skipped → outcome ≠ .restart →
              (∀ ch, s.change = some ch → ch.carrier = c → ch.trib = e.trib →
                (ch.kind = .place → byte = .fresh) ∧
                (ch.kind = .regroom → (s.carrier c).map[i] ≠ some e → byte = .moved) ∧
                (ch.kind = .regroom → (s.carrier c).map[i] = some e → byte = .normal)) ∧
              ((∀ ch, s.change = some ch → ch.carrier = c → ch.trib ≠ e.trib) → byte = .normal))) ∧
    ∀ d : CarrierId, d ≠ c → ∀ i : Fin 240,
      (t.carrier d).indications[i] = match (s.carrier d).map[i] with
        | some e =>
          if (before e.trib).state ≠ .silent ∧ (t.trib e.trib).state = .silent then .alarm
          else (s.carrier d).indications[i]
        | none => (s.carrier d).indications[i]

/-- A read held at the head is offered again once an entry of either table has become FREE, the tests made afresh (R98, R99).
With entries enough it is accepted as a read that has just reached the head, and the requests behind it are offered in turn
(R134; in the same step by log entry 7, DEDUCED). With no FREE parent entry, or with fewer FREE sub-read entries than it needs
after any cycle start that it calls for, it stays held, and reports ACCEPT-WAITS only if it has not yet (R98). That the row
offers nothing when nothing is due (reofferDue) is the model's choice (log entry 9, DESIGN CHOICE). -/
def Obligations.HeldReadReoffered : Prop :=
  ∀ (r : URead) (b : Bool) (rest : List Held) (s : State), s.channel.waiting = ⟨.read r, b⟩ :: rest →
    let u := { s with channel := ⟨[], false⟩ }
    let o := s.whenOffered r
    let needed := if region r.address ≠ .window then 1
      else if wellFormedRead r.address r.length = true ∧ windowPosition r.address < 240 ∧
          (s.carrier (windowCarrier r.address)).on = true then (cutPieces 0 (o.wordKinds r)).length
      else 0
    (s.channel.reofferDue = true → (∃ i : Fin 32, (s.parent i).state = .free) → needed ≤ o.freeSubs.length →
      ∃ t, exec (requestRow (.read r)) u = .next t ∧ exec .heldReadReoffer s = .next (t.offerAll rest) ∧
        t.channel = ⟨[], false⟩ ∧
        ∃ i : Fin 32, (s.parent i).state = .free ∧ (t.parent i).state ≠ .free ∧ (t.parent i).tag = r.tag ∧
          (t.parent i).source = r.source ∧ (t.parent i).address = r.address) ∧
    (s.channel.reofferDue = true → (∀ i : Fin 32, (s.parent i).state ≠ .free) →
      exec .heldReadReoffer s = .next
        { (if b then s else s.waitReported r) with channel := ⟨⟨.read r, true⟩ :: rest, false⟩ }) ∧
    (s.channel.reofferDue = true → (∃ i : Fin 32, (s.parent i).state = .free) → o.freeSubs.length < needed →
      exec .heldReadReoffer s = .next
        { (if b then o else o.waitReported r) with channel := ⟨⟨.read r, true⟩ :: rest, false⟩ }) ∧
    (s.channel.reofferDue = false → exec .heldReadReoffer s = .next s)

/-- A forwarded write held at the head is offered again once a forwarded write has left the M-side queue, and is then
accepted as one that has just reached the head, and the requests behind it are offered in turn (R134; in the same step by log
entry 7, DEDUCED); with the queue full again it stays held. That the row offers nothing when nothing is due (reofferDue) is the
model's choice (log entry 9, DESIGN CHOICE); PASS-WRITES after the append is log entry 23 (DESIGN CHOICE). -/
def Obligations.HeldWriteReoffered : Prop :=
  ∀ (w : UWrite) (b : Bool) (rest : List Held) (s : State), s.channel.waiting = ⟨.write w, b⟩ :: rest →
    region w.address ≠ .window →
    (s.channel.reofferDue = true → s.forwardedWrites < 32 →
      ∃ t ws, exec (requestRow (.write w)) { s with channel := ⟨[], false⟩ } = .next t ∧
        exec .heldWriteReoffer s = .next (t.offerAll rest) ∧ t.channel = ⟨[], false⟩ ∧
        t.mQueue = s.mQueue ++ .write .forwarded w.source w.address w.data w.enables :: ws) ∧
    (s.channel.reofferDue = true → 32 ≤ s.forwardedWrites →
      exec .heldWriteReoffer s = .next { s with channel := ⟨⟨.write w, b⟩ :: rest, false⟩ }) ∧
    (s.channel.reofferDue = false → exec .heldWriteReoffer s = .next s)

/-- The memory side takes the request at the front of the M-side queue: it leaves the queue, and nothing else of the part
moves, but that a held write is due to be offered again when the request was a forwarded write (R134, R135). -/
def Obligations.MSideTakesFrontRequest : Prop :=
  ∀ (s : State) (q : MRequest) (rest : List MRequest), s.mQueue = q :: rest →
    ∃ t, exec .mSideRequestTaken s = .next t ∧
      t = { s with
        mQueue := rest
        outputs := { s.outputs with requests := s.outputs.requests ++ [q] }
        channel := { s.channel with reofferDue := t.channel.reofferDue } } ∧
      (t.channel.reofferDue = true ↔ s.channel.reofferDue = true ∨
        ((∃ source address data enables, q = .write .forwarded source address data enables) ∧
          ∃ w b others, s.channel.waiting = ⟨.write w, b⟩ :: others))

/-! ## Memory responses -/

/-- A response is stale when its epoch differs, when on the fetch pool its entry is not 0, the fetch entry FREE or the
generation different, and on the translation pool when its entry number is above 63, the entry FREE or the generation
different. It is discarded whole, with one STALE-RESPONSES occurrence (R116, R122, R129). -/
def Obligations.StaleResponseDiscarded : Prop :=
  ∀ (tag : BitVec 16) (result : MemResult) (words : List Word) (s : State),
    let entry := (tag.extractLsb' 0 8).toNat
    let generation : BitVec 2 := tag.extractLsb' 8 2
    tag.getLsbD 11 ≠ s.response.epoch ∨
      (tag.getLsbD 10 = true ∧
        (entry ≠ 0 ∨ s.response.fetch.issued = false ∨ s.response.fetch.generation ≠ generation)) ∨
      (tag.getLsbD 10 = false ∧
        (63 < entry ∨ ∃ k : Fin 64, k.val = entry ∧
          ((s.sub k).state = .free ∨ (s.sub k).generation ≠ generation))) →
    exec (.memoryResponse tag result words) s = .next (s.report ⟨.staleResponses, 1, none, none⟩)

/-- A GOOD answer to an ISSUED entry, with as many words as the entry's length, writes its words into the parent's buffer
at the entry's first word and onward and discards words beyond the length; for a malformed PASS read the words, as many as
come, go to the parent's own store (R105). It lowers the outstanding count, completes the parent at 0 with its one READ-FAULT
if a sub-read was late or faulted, and releases the entry. The parent's status does not change (R107, R117, R123, R126). A
parent that becomes COMPLETE and stands first in its source's list joins the end of the ready responses (R108, R109). That
READ-FAULT comes before the release is log entry 11 (DEDUCED); that a malformed PASS read of length 0 takes the words that come
is log entry 24 (DESIGN CHOICE). -/
def Obligations.GoodAnswerFillsParent : Prop :=
  ∀ (k : Fin 64) (tag : BitVec 16) (words : List Word) (s : State), (s.sub k).state = .issued →
    TagNames tag k.val (s.sub k).generation false s.response.epoch →
    let e := s.sub k
    let p := s.parent e.parent
    let stores := p.cls = .pass ∧ wellFormedRead p.address p.length = false
    (¬stores → e.length ≤ words.length) →
    ∃ t, exec (.memoryResponse tag .good words) s = .next t ∧
      let q := t.parent e.parent
      q = { p with
        words := q.words, store := if stores then words else p.store, outstanding := p.outstanding - 1,
        state := if p.outstanding ≤ 1 then .complete else p.state } ∧
      (stores → q.words = p.words) ∧
      (¬stores → q.words.length = p.words.length ∧
        ∀ n (h : n < p.words.length) (h' : n < q.words.length), q.words[n] =
          if e.first ≤ n ∧ n < e.first + e.length then some (words.getD (n - e.first) 0) else p.words[n]) ∧
      (∀ j : Fin 32, j ≠ e.parent → t.parent j = s.parent j) ∧
      t.translation.lists = s.translation.lists ∧ (s.translation.ListsSound → JoinsReady s t e.parent) ∧
      Releases s (faultReported s q) t k

/-- A FAULT answer, or a GOOD one with too few words, to an ISSUED entry: the words are written as received, missing ones
as zero; the parent's status rises to ERROR and its fault count by 1; one FAULT-SUBREADS occurrence; the entry is
released (R107, R117, R118, R123, R125, R126). For a malformed PASS read only a FAULT is a fault, and the words received go to
the parent's own store (R105, R117). A parent that becomes COMPLETE and stands first in its source's list joins the end of the
ready responses (R108, R109). That FAULT-SUBREADS comes before READ-FAULT and both before the release is log entry 11 (DEDUCED);
that a malformed PASS read of length 0 takes the words that come is log entry 24 (DESIGN CHOICE). -/
def Obligations.FaultAnswerRaisesError : Prop :=
  ∀ (k : Fin 64) (tag : BitVec 16) (result : MemResult) (words : List Word) (s : State), (s.sub k).state = .issued →
    TagNames tag k.val (s.sub k).generation false s.response.epoch →
    let e := s.sub k
    let p := s.parent e.parent
    let stores := p.cls = .pass ∧ wellFormedRead p.address p.length = false
    result = .fault ∨ (¬stores ∧ words.length < e.length) →
    ∃ t, exec (.memoryResponse tag result words) s = .next t ∧
      let q := t.parent e.parent
      q = { p with
        words := q.words, store := if stores then words else p.store, outstanding := p.outstanding - 1, status := .error,
        faults := p.faults + 1, state := if p.outstanding ≤ 1 then .complete else p.state } ∧
      (stores → q.words = p.words) ∧
      (¬stores → q.words.length = p.words.length ∧
        ∀ n (h : n < p.words.length) (h' : n < q.words.length), q.words[n] =
          if e.first ≤ n ∧ n < e.first + e.length then some (words.getD (n - e.first) 0) else p.words[n]) ∧
      (∀ j : Fin 32, j ≠ e.parent → t.parent j = s.parent j) ∧
      t.translation.lists = s.translation.lists ∧ (s.translation.ListsSound → JoinsReady s t e.parent) ∧
      Releases s
        (faultReported (s.report ⟨.faultSubreads, 1, e.carrier, e.trib⟩) q) t k

/-- An EXPIRED entry ends in one of two ways, and neither touches a parent. A response of matching generation is a late
arrival, whatever its result: its words are discarded, one LATE-ARRIVALS occurrence is reported, and the entry is
released (R120, R123). At issue time plus eight intervals it is abandoned: READ-ABANDONED is raised with the entry
number, its address, tributary and carrier, and the entry is released (R115, R121, R123). That the report comes before the
release's TRIB-RETIRED is log entry 11 (DEDUCED). -/
def Obligations.ExpiredEntryReleased : Prop :=
  ∀ (k : Fin 64) (s : State), (s.sub k).state = .expired →
    (∀ (tag : BitVec 16) (result : MemResult) (words : List Word),
      TagNames tag k.val (s.sub k).generation false s.response.epoch →
      ∃ t, exec (.memoryResponse tag result words) s = .next t ∧
        t.translation.parents = s.translation.parents ∧ t.translation.lists = s.translation.lists ∧
        t.translation.ready = s.translation.ready ∧
        Releases s (s.report ⟨.lateArrivals, 1, (s.sub k).carrier, (s.sub k).trib⟩) t k) ∧
    (s.response.microseconds = (s.sub k).issue + BitVec.ofNat 32 (8 * (s.sub k).interval) →
      ∃ t, exec (.abandonment k) s = .next t ∧
        t.translation.parents = s.translation.parents ∧ t.translation.lists = s.translation.lists ∧
        t.translation.ready = s.translation.ready ∧
        Releases s (s.raise (.readAbandoned (s.sub k).carrier (s.sub k).trib k (s.sub k).address)) t k)

/-- A GOOD answer of 8 words to the outstanding fetch runs the command that the record spells, for every command and every
field of its record, and whatever stands in the bytes and flag bits that the command does not use, of the grain list in those
beyond the tributary's width (R129, R147, R148, R182). That it is the same step as that command's own row, but for the copy of
the record that an admitted command keeps, is the model's reading of the row (log entry 5, DESIGN CHOICE). -/
def Obligations.FetchAnswerRunsItsCommand : Prop :=
  ∀ (c : Command) (tag : BitVec 16) (more : List Word) (s : State), c.wellFormed = true →
    s.response.fetch.issued = true → TagNames tag 0 s.response.fetch.generation true s.response.epoch →
    exec (.memoryResponse tag .good (wordsOfBytes 8 c.record ++ more)) s = exec c.row s ∧
    ∀ record : Record, record.length = 128 →
      (∀ i < 128, recByte record i &&& bitsRead s c i = recByte c.record i &&& bitsRead s c i) →
      ∃ t u, exec c.row s = .next u ∧
        exec (.memoryResponse tag .good (wordsOfBytes 8 record ++ more)) s = .next t ∧
        t = { u with processor := { u.processor with command := u.processor.command.map fun _ => record } }

/-- A FAULT answer to the outstanding fetch, an answer of fewer than 8 words, and the fetch's expiry at issue time plus
interval each complete the command FETCH-ERROR with all-zero reply data, report nothing and change nothing else
(R128, R129, R148, R151). -/
def Obligations.FetchFailureCompletesFetchError : Prop :=
  ∀ s : State, s.response.fetch.issued = true →
    (∀ (tag : BitVec 16) (result : MemResult) (words : List Word),
      TagNames tag 0 s.response.fetch.generation true s.response.epoch → result = .fault ∨ words.length < 8 →
      ∃ t, exec (.memoryResponse tag result words) s = .next t ∧
        OnlyCompletes s t .fetchError []) ∧
    (s.response.microseconds = s.response.fetch.issue + BitVec.ofNat 32 s.response.fetch.interval →
      ∃ t, exec .fetchExpiry s = .next t ∧ OnlyCompletes s t .fetchError [])

/-- The response that became ready first leaves with its source, tag, status and words; its entry becomes FREE and leaves
the front of its source's list; the next of that source is ready at once if it is COMPLETE; a held read is due to be
offered again (R99, R108, R109). That the FREE entry keeps its other fields is the model's choice (log entry 2, DESIGN
CHOICE). -/
def Obligations.ReadyResponseDeparts : Prop :=
  ∀ (s : State) (i : Fin 32) (rest : List (Fin 32)), s.translation.ListsSound → s.translation.ready = i :: rest →
    let p := s.parent i
    ∃ t, exec .responseDeparture s = .next t ∧
      t.outputs = { s.outputs with responses := s.outputs.responses ++
        [{ source := p.source, tag := p.tag, status := p.status,
           words := if p.cls = .pass ∧ wellFormedRead p.address p.length = false then p.store
             else p.words.map fun w => w.getD 0 }] } ∧
      t.parent i = { p with state := .free } ∧ (∀ j : Fin 32, j ≠ i → t.parent j = s.parent j) ∧
      s.sourceList p.source = i :: t.sourceList p.source ∧
      (∀ src : Source, src ≠ p.source → t.sourceList src = s.sourceList src) ∧
      (t.translation.ready = rest ++
        match t.sourceList p.source with
        | j :: _ => if (s.parent j).state = .complete then [j] else []
        | [] => []) ∧
      t.translation.subReads = s.translation.subReads ∧ SameTables s t ∧ SameReporting s t ∧ t.mQueue = s.mQueue ∧
      t.processor = s.processor ∧ t.response = s.response ∧ t.pending = s.pending ∧
      t.channel.waiting = s.channel.waiting ∧
      (t.channel.reofferDue = true ↔ s.channel.reofferDue = true ∨
        ∃ q b others, s.channel.waiting = ⟨.read q, b⟩ :: others)

/-! ## Deadlines -/

/-- The deadline of a pending change applies it at once, outside any cycle start (R11, R18, R19 to R22): the current page and
the cycle count stay, no placement but the changed one moves, no fresh mark is set, an UNPLACE of the last placement leaves the
tributary IDLE, and the command completes APPLIED-LATE. Only the bytes of the positions that the change touched are written: a
vacated one UNASSIGNED; a new or changed one ALARM when its tributary is SILENT or its placement restart-pending; else, of a
REGROOM, the REPEAT, SKIP or RESTART that a position of the placement shows just before; else FRESH for a PLACE and MOVED for a
REGROOM (R23). The processor's invariant says that no fetch is outstanding then. -/
def Obligations.DeadlineAppliesPendingChange : Prop :=
  ∀ (s : State) (ch : PendingChange), s.ProcessorSound → s.change = some ch → s.response.microseconds = ch.deadline →
    let c := ch.carrier
    let m := changedMap ch.kind ch.trib ch.positions (s.carrier c).map
    let shown := fun byte : Indication => (byte = .repeated ∨ byte = .skipped ∨ byte = .restart) ∧
      ∃ (j : Fin 240) (e : MapEntry), (s.carrier c).map[j] = some e ∧ e.trib = ch.trib ∧
        (s.carrier c).indications[j] = byte
    ∃ t, exec .deadlineExpiry s = .next t ∧ Applies s t ch .appliedLate false ∧
      (∀ i : Fin 240, m[i] = (s.carrier c).map[i] → (t.carrier c).indications[i] = (s.carrier c).indications[i]) ∧
      (∀ i : Fin 240, m[i] ≠ (s.carrier c).map[i] → m[i] = none → (t.carrier c).indications[i] = .unassigned) ∧
      ∀ i : Fin 240, m[i] ≠ (s.carrier c).map[i] → m[i] ≠ none →
        let byte := (t.carrier c).indications[i]
        if (t.trib ch.trib).state = .silent ∨
            ∃ q, (t.trib ch.trib).placementIn c = some q ∧ q.restartPending = true then byte = .alarm
        else (ch.kind = .place → byte = .fresh) ∧
          (ch.kind = .regroom → (∃ held, shown held) → shown byte) ∧
          (ch.kind = .regroom → (¬∃ held, shown held) → byte = .moved)

/-- An ISSUED entry expires at issue time plus interval: it becomes EXPIRED and is not released; its parent's words are
filled with its tributary's fill byte, or zero for a PASS read, those of a malformed PASS read in the parent's own store, as
many as the entry's length (R105); the parent's status rises to LATE if it stood lower, the late count rises and the
outstanding count falls; LATE-SUBREADS is reported, and the parent's READ-FAULT raised after it (log entry 11, DEDUCED) when
this completes it (R119, R125, R126). A parent that becomes COMPLETE and stands first in its source's list joins the end of the
ready responses (R108, R109). -/
def Obligations.SubReadExpires : Prop :=
  ∀ (k : Fin 64) (s : State), (s.sub k).state = .issued →
    s.response.microseconds = (s.sub k).issue + BitVec.ofNat 32 (s.sub k).interval →
    let e := s.sub k
    let p := s.parent e.parent
    let stores := p.cls = .pass ∧ wellFormedRead p.address p.length = false
    let fill : Word := match e.trib with
      | some u => wordOfBytes (List.replicate 16 (s.trib u).fill)
      | none => 0
    ∃ t, exec (.subReadExpiry k) s = .next t ∧
      let q := t.parent e.parent
      t.sub k = { e with state := .expired } ∧ (∀ l : Fin 64, l ≠ k → t.sub l = s.sub l) ∧
      q = { p with
        words := q.words, store := if stores then List.replicate e.length fill else p.store,
        outstanding := p.outstanding - 1, late := p.late + 1,
        status := if p.status = .error then .error else .late,
        state := if p.outstanding ≤ 1 then .complete else p.state } ∧
      (stores → q.words = p.words) ∧
      (¬stores → q.words.length = p.words.length ∧
        ∀ n (h : n < p.words.length) (h' : n < q.words.length), q.words[n] =
          if e.first ≤ n ∧ n < e.first + e.length then some fill else p.words[n]) ∧
      (∀ j : Fin 32, j ≠ e.parent → t.parent j = s.parent j) ∧ t.translation.lists = s.translation.lists ∧
      (s.translation.ListsSound → JoinsReady s t e.parent) ∧ SameTables s t ∧ t.processor = s.processor ∧
      t.response = s.response ∧ t.channel = s.channel ∧
      t.outputs = s.outputs ∧ t.pending = s.pending ∧
      ReportsAs (faultReported (s.report ⟨.lateSubreads, 1, e.carrier, e.trib⟩) q) t

/-- The count rises by 1 each microsecond, wrapping, and with no deadline reached nothing else moves (R114). That an expiry,
an abandonment or a deadline row does nothing before its time, or for an entry or a change that is not in the state it
concerns, is the model's choice, made so that each falls due when R18, R115 and R128 say; so is it that the advance of the
count first takes every deadline that is reached and not taken, the pending change, the fetch, then the expiry and the
abandonment of each entry in order (log entry 10, DESIGN CHOICE). That a command row does nothing while no fetch is outstanding
is log entry 5 (DESIGN CHOICE). -/
def Obligations.NothingHappensBeforeItsTime : Prop :=
  ∀ s : State,
    let fetchDue := s.response.fetch.issued = true ∧
      s.response.microseconds = s.response.fetch.issue + BitVec.ofNat 32 s.response.fetch.interval
    let changeDue := ∃ ch, s.change = some ch ∧ s.response.microseconds = ch.deadline
    let expiryDue := fun k : Fin 64 => (s.sub k).state = .issued ∧
      s.response.microseconds = (s.sub k).issue + BitVec.ofNat 32 (s.sub k).interval
    let abandonDue := fun k : Fin 64 => (s.sub k).state = .expired ∧
      s.response.microseconds = (s.sub k).issue + BitVec.ofNat 32 (8 * (s.sub k).interval)
    (¬fetchDue → exec .fetchExpiry s = .next s) ∧ (¬changeDue → exec .deadlineExpiry s = .next s) ∧
    (∀ k, ¬expiryDue k → exec (.subReadExpiry k) s = .next s) ∧
    (∀ k, ¬abandonDue k → exec (.abandonment k) s = .next s) ∧
    (¬fetchDue → ¬changeDue → (∀ k, ¬expiryDue k) → (∀ k, ¬abandonDue k) →
      exec .microsecondCountAdvance s = .next
        { s with response := { s.response with microseconds := s.response.microseconds + 1 } }) ∧
    (∃ t : State,
      (.deadlineExpiry :: .fetchExpiry :: (List.finRange 64).flatMap fun k => [.subReadExpiry k, .abandonment k]).foldl
        (fun (o : Host.Outcome State Fault Refusal) (row : Instr) => match o with
          | .next x => exec row x
          | other => other) (.next s) = .next t ∧
      t.response.microseconds = s.response.microseconds ∧
      exec .microsecondCountAdvance s = .next
        { t with response := { t.response with microseconds := s.response.microseconds + 1 } }) ∧
    (s.response.fetch.issued = false → ∀ c : Command, exec c.row s = .next s)

/-! ## Tributary commands -/

/-- ATTACH of a FREE tributary with a width of 1 to 60 makes it IDLE with that width, the target lag clamped to 2 to 5
and the fill byte, IW and the four counts 0, and replies with them; otherwise it is refused at the first test that fails
and changes nothing: BAD-FIELD for a tributary above 1023 or a bad width, WRONG-STATE for one that is not FREE (R36,
R37). -/
def Obligations.AttachExecutesOrRefuses : Prop :=
  ∀ (tributary : BitVec 16) (width lag fill : Byte) (s : State), s.response.fetch.issued = true →
    (1024 ≤ tributary.toNat →
      ∃ u, exec (.attach tributary width lag fill) s = .next u ∧ OnlyCompletes s u .badField []) ∧
    ∀ t : TribId, t.val = tributary.toNat →
      (width.toNat = 0 ∨ 60 < width.toNat →
        ∃ u, exec (.attach tributary width lag fill) s = .next u ∧
          OnlyCompletes s u .badField [(s.trib t).state.code]) ∧
      (1 ≤ width.toNat ∧ width.toNat ≤ 60 → (s.trib t).state ≠ .free →
        ∃ u, exec (.attach tributary width lag fill) s = .next u ∧
          OnlyCompletes s u .wrongState [(s.trib t).state.code]) ∧
      (1 ≤ width.toNat ∧ width.toNat ≤ 60 → (s.trib t).state = .free →
        ∃ u, exec (.attach tributary width lag fill) s = .next u ∧
          u.trib t = { s.trib t with
            state := .idle, width := width.toNat, targetLag := max 2 (min 5 lag.toNat), fill := fill, iw := 0,
            repeatSlips := 0, skipSlips := 0, jumps := 0, strays := 0 } ∧
          SameOtherTribs s u t ∧ u.carriers = s.carriers ∧ u.change = s.change ∧ SameReporting s u ∧
          CompletesWork s u s.mQueue .done [1, width, BitVec.ofNat 8 (max 2 (min 5 lag.toNat)), fill])

/-- DETACH of an IDLE tributary makes it FREE with a TRIB-RETIRED event when nothing is in flight, and RETIRING
otherwise, with width 0 and everything else kept, and replies with the state it left and the in-flight count; a
tributary above 1023 and one that is not IDLE are refused and nothing changes (R38, R39). -/
def Obligations.DetachExecutesOrRefuses : Prop :=
  ∀ (tributary : BitVec 16) (s : State), s.response.fetch.issued = true →
    (1024 ≤ tributary.toNat → ∃ u, exec (.detach tributary) s = .next u ∧ OnlyCompletes s u .badField []) ∧
    ∀ t : TribId, t.val = tributary.toNat →
      ((s.trib t).state ≠ .idle →
        ∃ u, exec (.detach tributary) s = .next u ∧ OnlyCompletes s u .wrongState [(s.trib t).state.code]) ∧
      ((s.trib t).state = .idle → (s.trib t).inFlight = 0 →
        ∃ u, exec (.detach tributary) s = .next u ∧
          u.trib t = { s.trib t with state := .free, width := 0 } ∧ SameOtherTribs s u t ∧
          u.carriers = s.carriers ∧ u.change = s.change ∧ SameReporting (s.raise (.tribRetired t)) u ∧
          CompletesWork s u (s.raise (.tribRetired t)).mQueue .done [0, 0]) ∧
      ((s.trib t).state = .idle → (s.trib t).inFlight ≠ 0 →
        ∃ u, exec (.detach tributary) s = .next u ∧
          u.trib t = { s.trib t with state := .retiring, width := 0 } ∧ SameOtherTribs s u t ∧
          u.carriers = s.carriers ∧ u.change = s.change ∧ SameReporting s u ∧
          CompletesWork s u s.mQueue .done [4, BitVec.ofNat 8 (s.trib t).inFlight])

/-- CLEAR-COUNTS of a tributary that is not FREE replies with its state and its four counts and clears them, changing no
other field; one above 1023 is refused BAD-FIELD with zero data, a FREE one WRONG-STATE with its state and zero counts,
and neither changes anything (R40). -/
def Obligations.ClearCountsReturnsAndClears : Prop :=
  ∀ (tributary : BitVec 16) (s : State), s.response.fetch.issued = true →
    (1024 ≤ tributary.toNat → ∃ u, exec (.clearCounts tributary) s = .next u ∧ OnlyCompletes s u .badField []) ∧
    ∀ t : TribId, t.val = tributary.toNat →
      ((s.trib t).state = .free →
        ∃ u, exec (.clearCounts tributary) s = .next u ∧ OnlyCompletes s u .wrongState [0]) ∧
      ((s.trib t).state ≠ .free →
        ∃ u, exec (.clearCounts tributary) s = .next u ∧
          u.trib t = { s.trib t with repeatSlips := 0, skipSlips := 0, jumps := 0, strays := 0 } ∧
          SameOtherTribs s u t ∧ u.carriers = s.carriers ∧ u.change = s.change ∧ SameReporting s u ∧
          CompletesWork s u s.mQueue .done
            ([(s.trib t).state.code, 0] ++ leBytes 2 (s.trib t).repeatSlips.toNat
              ++ leBytes 2 (s.trib t).skipSlips.toNat ++ leBytes 2 (s.trib t).jumps.toNat
              ++ leBytes 2 (s.trib t).strays.toNat))

/-! ## Map commands -/

/-- The tests of PLACE, REGROOM and UNPLACE, in order, each with its code. BAD-FIELD: a tributary above 1023, a carrier above
15, or, with PICK clear, a listed position above 239 or listed twice (R8; not looked at for a FREE or RETIRING tributary).
WRONG-STATE: for PLACE, carrier OFF, tributary not IDLE, ACTIVE or SILENT, or placed there already; else not placed there.
NO-ROOM: PLACE with two placements. GRAIN-TAKEN: a listed position not free; the placement's own count as free for REGROOM.
NO-ROOM: PICK finds no list. COST-LIMIT: the cost of the map with the change put in exceeds the limit (R7, R13, R14, R15). A
refusal changes nothing, its reply all zero, but that COST-LIMIT gives that cost and the generation (R12, R150). A command that
passes all is the pending change (R16). -/
def Obligations.MapCommandAdmittedOrRefused : Prop :=
  ∀ (tributary : BitVec 16) (carrier : Byte) (pick scatter : Bool) (grains : List Byte) (kind : ChangeKind) (s : State),
    let command : Command := match kind with
      | .place => .place tributary carrier pick scatter grains
      | .regroom => .regroom tributary carrier pick scatter grains
      | .unplace => .unplace tributary carrier
    s.response.fetch.issued = true →
    (1024 ≤ tributary.toNat ∨ 16 ≤ carrier.toNat →
      ∃ u, exec command.row s = .next u ∧ OnlyCompletes s u .badField []) ∧
    ∀ (t : TribId) (c : CarrierId), t.val = tributary.toNat → c.val = carrier.toNat →
      let tr := s.trib t
      let r := s.carrier c
      let usable := tr.state = .idle ∨ tr.state = .active ∨ tr.state = .silent
      let placed := ∃ q ∈ tr.placements, q.carrier = c
      let list := (List.range tr.width).map fun k => (grains.getD k 0).toNat
      let own := if kind = .regroom then some t else none
      let badList := kind ≠ .unplace ∧ pick = false ∧ usable ∧ ¬(list.Nodup ∧ ∀ g ∈ list, g < 240)
      let badState := if kind = .place then r.on = false ∨ ¬usable ∨ placed else ¬placed
      let full := kind = .place ∧ 2 ≤ tr.placements.length
      let taken := kind ≠ .unplace ∧ pick = false ∧
        ∃ i : Position, i.val ∈ list ∧ ∃ e, r.map[i] = some e ∧ own ≠ some e.trib
      let noList := kind ≠ .unplace ∧ pick = true ∧ pick? tr.width scatter own r.map = none
      ((tr.state = .free ∨ tr.state = .retiring) → tr.placements = []) →
      ∃ u, exec command.row s = .next u ∧
        (badList → OnlyCompletes s u .badField []) ∧
        (¬badList → badState → OnlyCompletes s u .wrongState []) ∧
        (¬badList → ¬badState → full → OnlyCompletes s u .noRoom []) ∧
        (¬badList → ¬badState → ¬full → taken → OnlyCompletes s u .grainTaken []) ∧
        (¬badList → ¬badState → ¬full → ¬taken → noList → OnlyCompletes s u .noRoom []) ∧
        (¬badList → ¬badState → ¬full → ¬taken → ¬noList → ∃ positions : List Position,
          (kind ≠ .unplace → pick = false → positions.map (fun i => i.val) = list) ∧
          (kind ≠ .unplace → pick = true → pick? tr.width scatter own r.map = some positions) ∧
          (kind = .unplace → positions = []) ∧
          let cost := readCost (changedMap kind t positions r.map)
          (kind ≠ .unplace → r.costLimit < cost →
            OnlyCompletes s u .costLimit ([BitVec.ofNat 8 cost, 0] ++ leBytes 2 r.generation.toNat)) ∧
          (kind = .unplace ∨ cost ≤ r.costLimit →
            ∃ ch, Admits s u command.record ch ∧ ch.kind = kind ∧ ch.trib = t ∧ ch.carrier = c ∧
              ch.positions = positions))

/-- PLACE of an IDLE, ACTIVE or SILENT tributary with fewer than two placements and none in the carrier, into an ON
carrier, is admitted: with PICK clear at the first w positions of its list, when they are distinct and UNASSIGNED; with
PICK set at the positions the allocator finds; when the cost with the new entries is within the limit (R7, R8, R13,
R16). -/
def Obligations.PlaceAdmitted : Prop :=
  ∀ (tributary : BitVec 16) (carrier : Byte) (pick scatter : Bool) (grains : List Byte) (s : State) (t : TribId)
    (c : CarrierId) (positions : List Position),
    s.response.fetch.issued = true → t.val = tributary.toNat → c.val = carrier.toNat → (s.carrier c).on = true →
    (s.trib t).state = .idle ∨ (s.trib t).state = .active ∨ (s.trib t).state = .silent →
    (∀ p ∈ (s.trib t).placements, p.carrier ≠ c) → (s.trib t).placements.length < 2 →
    positions.length = (s.trib t).width →
    (pick = false → positions.map (fun p => p.val) = (grains.take (s.trib t).width).map BitVec.toNat ∧
      positions.Nodup ∧ ∀ p ∈ positions, (s.carrier c).map[p] = none) →
    (pick = true → pick? (s.trib t).width scatter none (s.carrier c).map = some positions) →
    readCost (writeEntries t positions (s.carrier c).map) ≤ (s.carrier c).costLimit →
    ∃ u ch, exec (.place tributary carrier pick scatter grains) s = .next u ∧
      Admits s u (Command.place tributary carrier pick scatter grains).record ch ∧ ch.kind = .place ∧ ch.trib = t ∧
      ch.carrier = c ∧ ch.positions = positions

/-- REGROOM of a placement is admitted when its new positions are UNASSIGNED or its own and the cost with its old entries
removed and the new ones added is within the limit (R7, R8, R14, R16). -/
def Obligations.RegroomAdmitted : Prop :=
  ∀ (tributary : BitVec 16) (carrier : Byte) (pick scatter : Bool) (grains : List Byte) (s : State) (t : TribId)
    (c : CarrierId) (positions : List Position),
    s.response.fetch.issued = true → t.val = tributary.toNat → c.val = carrier.toNat →
    (∃ p ∈ (s.trib t).placements, p.carrier = c) → positions.length = (s.trib t).width →
    (pick = false → positions.map (fun p => p.val) = (grains.take (s.trib t).width).map BitVec.toNat ∧
      positions.Nodup ∧ ∀ p ∈ positions, ∀ e, (s.carrier c).map[p] = some e → e.trib = t) →
    (pick = true → pick? (s.trib t).width scatter (some t) (s.carrier c).map = some positions) →
    readCost (writeEntries t positions (clearEntries t (s.carrier c).map)) ≤ (s.carrier c).costLimit →
    ∃ u ch, exec (.regroom tributary carrier pick scatter grains) s = .next u ∧
      Admits s u (Command.regroom tributary carrier pick scatter grains).record ch ∧ ch.kind = .regroom ∧
      ch.trib = t ∧ ch.carrier = c ∧ ch.positions = positions

/-- UNPLACE of a placement that the tributary has in the carrier is always admitted; without one it is refused
WRONG-STATE, and a tributary above 1023 or a carrier above 15 BAD-FIELD (R15, R16). -/
def Obligations.UnplaceAdmitted : Prop :=
  ∀ (tributary : BitVec 16) (carrier : Byte) (s : State), s.response.fetch.issued = true →
    (1024 ≤ tributary.toNat ∨ 16 ≤ carrier.toNat →
      ∃ u, exec (.unplace tributary carrier) s = .next u ∧ OnlyCompletes s u .badField []) ∧
    ∀ (t : TribId) (c : CarrierId), t.val = tributary.toNat → c.val = carrier.toNat →
      ((∀ p ∈ (s.trib t).placements, p.carrier ≠ c) →
        ∃ u, exec (.unplace tributary carrier) s = .next u ∧ OnlyCompletes s u .wrongState []) ∧
      ((∃ p ∈ (s.trib t).placements, p.carrier = c) →
        ∃ u ch, exec (.unplace tributary carrier) s = .next u ∧
          Admits s u (Command.unplace tributary carrier).record ch ∧ ch.kind = .unplace ∧ ch.trib = t ∧
          ch.carrier = c)

/-! ## Carrier commands -/

/-- CARRIER-ON clamps its cost limit to 8 to 240; an OFF carrier becomes ON with current page none and every indication
byte UNASSIGNED, an ON carrier takes the limit only. CARRIER-OFF of a carrier with mapped count 0 makes it OFF with
current page none, cost 0 and every byte UNASSIGNED; with mapped count above 0 it is refused WRONG-STATE. Each replies
with the image of overhead word 240 (Figure 12-12); a carrier above 15 is refused BAD-FIELD (R56, R57). -/
def Obligations.CarrierTurnedOnAndOff : Prop :=
  ∀ (carrier : Byte) (limit : BitVec 16) (s : State), s.response.fetch.issued = true →
    (16 ≤ carrier.toNat →
      (∃ u, exec (.carrierOn carrier limit) s = .next u ∧ OnlyCompletes s u .badField []) ∧
      ∃ u, exec (.carrierOff carrier) s = .next u ∧ OnlyCompletes s u .badField []) ∧
    let image := fun k : Carrier => leBytes 4 k.cycles.toNat ++ leBytes 2 k.generation.toNat ++
      [match k.page with
        | some p => BitVec.ofNat 8 p.toNat
        | none => 0xFF,
        if k.on then 1 else 0, BitVec.ofNat 8 k.mapped, BitVec.ofNat 8 k.cost, BitVec.ofNat 8 k.costLimit,
        if k.pendingFlag then 1 else 0, 0, 0, 0, 0]
    ∀ c : CarrierId, c.val = carrier.toNat →
      (∃ u, exec (.carrierOn carrier limit) s = .next u ∧
        u.carrier c = (if (s.carrier c).on then { s.carrier c with costLimit := max 8 (min 240 limit.toNat) }
          else { s.carrier c with
            on := true, page := none, costLimit := max 8 (min 240 limit.toNat),
            indications := Vector.replicate 240 .unassigned }) ∧
        SameOtherCarriers s u c ∧ u.tributaries = s.tributaries ∧ u.change = s.change ∧ SameReporting s u ∧
        CompletesWork s u s.mQueue .done (image (u.carrier c))) ∧
      (0 < (s.carrier c).mapped →
        ∃ u, exec (.carrierOff carrier) s = .next u ∧
          OnlyCompletes s u .wrongState (image (s.carrier c))) ∧
      ((s.carrier c).mapped = 0 →
        ∃ u, exec (.carrierOff carrier) s = .next u ∧
          u.carrier c = { s.carrier c with
            on := false, page := none, cost := 0, indications := Vector.replicate 240 .unassigned } ∧
          SameOtherCarriers s u c ∧ u.tributaries = s.tributaries ∧ u.change = s.change ∧ SameReporting s u ∧
          CompletesWork s u s.mQueue .done (image (u.carrier c)))

/-! ## Limits, notice, MARK -/

/-- SET-LIMITS is never refused. Each field whose apply flag is set is clamped to its range and becomes the limit, the
enter margin before the leave margin: an applied leave margin is clamped to the enter margin in effect, and a kept one to
a newly applied enter margin. The others are kept, with no flag set all of them; the reply carries all six, and nothing
else changes (R153). -/
def Obligations.SetLimitsClampsEachField : Prop :=
  ∀ (f : LimitFields) (s : State), s.response.fetch.issued = true →
    ∃ u, exec (.setLimits f) s = .next u ∧
      let l := s.processor.limits
      let n := u.processor.limits
      n.readExpiry = (if f.applyReadExpiry then max 1 (min 63 f.readExpiry.toNat) else l.readExpiry) ∧
      n.applyLimit = (if f.applyApplyLimit then max 1 (min 255 f.applyLimit.toNat) else l.applyLimit) ∧
      n.silence = (if f.applySilence then max 2 (min 15 f.silence.toNat) else l.silence) ∧
      n.enter = (if f.applyEnter then max 64 (min 768 f.enter.toNat) else l.enter) ∧
      n.leave = (if f.applyLeave then min n.enter f.leave.toNat
        else if f.applyEnter then min l.leave n.enter
        else l.leave) ∧
      n.unassignedFill = (if f.applyFill then f.fill else l.unassignedFill) ∧
      SameTables s u ∧ SameReporting s u ∧ SameSurroundings s u ∧
      Completes s u s.mQueue .done
        ([BitVec.ofNat 8 n.readExpiry, BitVec.ofNat 8 n.applyLimit, BitVec.ofNat 8 n.silence, n.unassignedFill]
          ++ leBytes 2 n.enter ++ leBytes 2 n.leave)

/-- SET-NOTICE of a known kind gives it the enable and the priority clamped to 7, applies the threshold clamped to 7 when
its flag is set, sets the notice line from the list and the threshold, and replies with the settings before and after,
the threshold, the untaken records and the line. Records written and the shadow list stay. An unknown kind code is
refused BAD-FIELD (R160, R168, R170). -/
def Obligations.SetNoticeWritesKindAndThreshold : Prop :=
  ∀ (f : NoticeFields) (s : State), s.response.fetch.issued = true →
    ((∀ k : EventKind, k.code ≠ f.kind) → ∃ u, exec (.setNotice f) s = .next u ∧ OnlyCompletes s u .badField []) ∧
    ∀ k : EventKind, k.code = f.kind →
      ∃ u, exec (.setNotice f) s = .next u ∧
        let old := s.events.setting k
        let new : KindSetting := ⟨f.enable ≠ 0, min 7 f.priority.toNat⟩
        u.events.setting k = new ∧ (∀ j : EventKind, j ≠ k → u.events.setting j = s.events.setting j) ∧
        u.events.threshold = (if f.applyThreshold then min 7 f.threshold.toNat else s.events.threshold) ∧
        u.events.written = s.events.written ∧ u.events.taken = s.events.taken ∧ u.events.lost = s.events.lost ∧
        u.events.shadow = s.events.shadow ∧
        (u.events.notice = true ↔ ∃ p ∈ s.events.shadow, u.events.threshold < p) ∧
        u.monitor = s.monitor ∧ u.draws = s.draws ∧ SameTables s u ∧
        CompletesWork s u s.mQueue .done
          ([f.kind, byteOfBool old.enabled, BitVec.ofNat 8 old.priority, byteOfBool new.enabled,
            BitVec.ofNat 8 new.priority, BitVec.ofNat 8 u.events.threshold]
            ++ leBytes 2 (s.events.written - s.events.taken).toNat ++ [byteOfBool u.events.notice])

/-- MARK raises one MARK event with its value and completes DONE with the value and W as it stands just after the raising;
the event's record stands in the M-side queue before the reply (R151, R157). -/
def Obligations.MarkRaisesItsEvent : Prop :=
  ∀ (value : BitVec 32) (s : State), s.response.fetch.issued = true →
    ∃ u, exec (.mark value) s = .next u ∧ SameReporting (s.raise (.mark value)) u ∧ SameTables s u ∧
      CompletesWork s u (s.raise (.mark value)).mQueue .done
        (leBytes 4 value.toNat ++ leBytes 2 (s.raise (.mark value)).events.written.toNat) ∧
      ((s.events.setting .mark).enabled = true → (s.events.written - s.events.taken).toNat ≠ 1024 →
        u.events.written = s.events.written + 1)

/-! ## Queries and the monitor -/

/-- QUERY-TRIBUTARY and QUERY-CARRIER change nothing: they complete DONE with the record as it stands, at the places of
Figure 12-9, whatever the tributary's or the carrier's state; a tributary above 1023 or a carrier above 15 is refused
BAD-FIELD with zero data (R155, R156). -/
def Obligations.QueriesReportAndChangeNothing : Prop :=
  ∀ (tributary : BitVec 16) (carrier start : Byte) (s : State), s.response.fetch.issued = true →
    (1024 ≤ tributary.toNat → ∃ u, exec (.queryTributary tributary) s = .next u ∧ OnlyCompletes s u .badField []) ∧
    (16 ≤ carrier.toNat → ∃ u, exec (.queryCarrier carrier start) s = .next u ∧ OnlyCompletes s u .badField []) ∧
    (∀ t : TribId, t.val = tributary.toNat →
      let tr := s.trib t
      ∃ u, exec (.queryTributary tributary) s = .next u ∧
        OnlyCompletes s u .done
          ([tr.state.code, BitVec.ofNat 8 tr.width, BitVec.ofNat 8 tr.targetLag, tr.fill] ++ leBytes 2 tr.iw.toNat
            ++ leBytes 2 tr.repeatSlips.toNat ++ leBytes 2 tr.skipSlips.toNat ++ leBytes 2 tr.jumps.toNat
            ++ leBytes 2 tr.strays.toNat ++ [BitVec.ofNat 8 tr.inFlight, 0]
            ++ placementBytes tr.placements.head? ++ placementBytes tr.placements.tail.head?)) ∧
    ∀ c : CarrierId, c.val = carrier.toNat →
      let r := s.carrier c
      ∃ u, exec (.queryCarrier carrier start) s = .next u ∧
        OnlyCompletes s u .done
          ([byteOfBool r.on, pageByte r.page] ++ leBytes 4 r.cycles.toNat ++ leBytes 2 r.generation.toNat
            ++ [BitVec.ofNat 8 r.cost, BitVec.ofNat 8 r.costLimit, BitVec.ofNat 8 r.mapped, start]
            ++ (List.range 10).flatMap fun k =>
              match r.map.toList.getD (start.toNat + k) none with
              | some e => leBytes 2 e.trib.val ++ [BitVec.ofNat 8 e.slot]
              | none => [0xFF, 0xFF, 0xFF])

/-- READ-MONITOR of a counter number above 7 is refused BAD-FIELD; of any other, locked or not, it completes DONE with the
counter as it stands and changes nothing, not the count either (R179). -/
def Obligations.ReadMonitorReportsCounter : Prop :=
  ∀ (counter : Byte) (s : State), s.response.fetch.issued = true →
    (8 ≤ counter.toNat → ∃ u, exec (.readMonitor counter) s = .next u ∧ OnlyCompletes s u .badField []) ∧
    ∀ n : Fin 8, n.val = counter.toNat →
      let k := s.counter n
      ∃ u, exec (.readMonitor counter) s = .next u ∧
        OnlyCompletes s u .done
          ([counter, sourceCode k.source,
            BitVec.ofNat 8 ((if k.carrierFilter then 1 else 0) + (if k.tribFilter then 2 else 0)
              + (if k.report then 4 else 0) + (if k.lock then 8 else 0)),
            BitVec.ofNat 8 k.carrierMatch.toNat, BitVec.ofNat 8 k.carrierMask.toNat] ++ leBytes 2 k.tribMatch.toNat
            ++ leBytes 2 k.tribMask.toNat ++ [0, 0, 0] ++ leBytes 4 k.note.toNat ++ leBytes 6 k.count.toNat)

/-- SET-MONITOR of an unlocked counter with a known source replaces its settings and its count, keeping the lock and the
low 4 and low 10 bits of the matches and masks, and replies with the counter as it stood; LOCK-MONITOR of an unlocked
counter sets its lock. On a locked counter both are refused LOCKED and change nothing; a counter above 7 or an unknown
source is refused BAD-FIELD (R178, R180). -/
def Obligations.MonitorSetAndLocked : Prop :=
  ∀ (f : MonitorFields) (s : State), s.response.fetch.issued = true →
    (8 ≤ f.counter.toNat ∨ toSource? f.source = none →
      ∃ u, exec (.setMonitor f) s = .next u ∧ OnlyCompletes s u .badField []) ∧
    (8 ≤ f.counter.toNat → ∃ u, exec (.lockMonitor f.counter) s = .next u ∧ OnlyCompletes s u .badField []) ∧
    ∀ n : Fin 8, n.val = f.counter.toNat →
      let k := s.counter n
      (k.lock = true →
        (∀ source, toSource? f.source = some source →
          ∃ u, exec (.setMonitor f) s = .next u ∧ OnlyCompletes s u .locked (counterBytes n k)) ∧
        ∃ u, exec (.lockMonitor f.counter) s = .next u ∧ OnlyCompletes s u .locked (counterBytes n k)) ∧
      (k.lock = false →
        (∀ source, toSource? f.source = some source →
          ∃ u, exec (.setMonitor f) s = .next u ∧
            u.counter n =
              { source := source, carrierFilter := f.carrierFilter,
                carrierMatch := BitVec.ofNat 4 (f.carrierMatch.toNat % 16),
                carrierMask := BitVec.ofNat 4 (f.carrierMask.toNat % 16), tribFilter := f.tribFilter,
                tribMatch := BitVec.ofNat 10 (f.tribMatch.toNat % 1024),
                tribMask := BitVec.ofNat 10 (f.tribMask.toNat % 1024), report := f.report, note := f.note,
                count := f.count, lock := false } ∧
            (∀ m : Fin 8, m ≠ n → u.counter m = s.counter m) ∧ u.events = s.events ∧ u.draws = s.draws ∧
            SameTables s u ∧ CompletesWork s u s.mQueue .done (counterBytes n k)) ∧
        ∃ u, exec (.lockMonitor f.counter) s = .next u ∧ u.counter n = { k with lock := true } ∧
          (∀ m : Fin 8, m ≠ n → u.counter m = s.counter m) ∧ u.events = s.events ∧ u.draws = s.draws ∧
          SameTables s u ∧ CompletesWork s u s.mQueue .done (counterBytes n { k with lock := true }))

/-- CLEAR-TABLES is never refused: every map entry becomes UNASSIGNED; every tributary loses its placements and its
width and becomes FREE or, with entries in flight, RETIRING; every carrier becomes OFF with current page none, cost 0,
limit 240, mapped count 0, pending flag clear, every byte UNASSIGNED and its generation raised by 1, its cycle count
kept. It raises no event, keeps all else, and replies with the number of tributaries RETIRING (R26, R42, R71, R158). -/
def Obligations.ClearTablesEmptiesTables : Prop :=
  ∀ s : State, s.response.fetch.issued = true →
    ∃ u, exec .clearTables s = .next u ∧
      (∀ t : TribId, u.trib t = { s.trib t with
        state := if (s.trib t).inFlight = 0 then .free else .retiring, width := 0, placements := [] }) ∧
      (∀ c : CarrierId, u.carrier c = { s.carrier c with
        on := false, page := none, generation := (s.carrier c).generation + 1, cost := 0, costLimit := 240, mapped := 0,
        pendingFlag := false, indications := Vector.replicate 240 .unassigned, map := Vector.replicate 240 none }) ∧
      u.change = s.change ∧ SameReporting s u ∧
      CompletesWork s u s.mQueue .done
        [BitVec.ofNat 8 (u.tributaries.toList.countP fun tr => tr.state = .retiring)]

/-- A record whose code names no command completes BAD-CODE with all-zero reply data and changes nothing else
(R150, R151). -/
def Obligations.UnknownCodeRefused : Prop :=
  ∀ (code : Byte) (s : State), s.response.fetch.issued = true → (Instr.badCode code).wellFormed = true →
    ∃ u, exec (.badCode code) s = .next u ∧ OnlyCompletes s u .badCode []

/-! ## Events, occurrences, evaluation, allocation -/

/-- An event of a disabled kind changes nothing. An enabled one with room in the ring is written: two record words at
0x0089_0000 + (W mod 1024) × 0x20 and the event write word with the new W join the M-side queue, the lost count goes into
the record and to 0, the kind's priority to the end of the shadow list, and the notice line is set. The record holds the kind's
code, the priority, the lost count, the carrier and the tributary it names, the microsecond count and the kind's detail, every
other byte zero (Figures 10-1 and 12-11, R183). With the ring full it
is lost: the lost count rises by 1, held at 255, one EVENTS-LOST occurrence with its carrier and tributary is reported to the
counters, and W, T, the list, the line and the M-side queue stay; where that occurrence wraps no counter that reports, nothing
else moves, and where it does the lost MONITOR-WRAP raises the lost count in its turn, to at most 255 (R162, R163, R165, R168,
R177). -/
def Obligations.EventWrittenLostOrDiscarded : Prop :=
  ∀ (e : Event) (s : State),
    let w := s.events
    let k := w.setting e.kind
    (k.enabled = false → s.raise e = s) ∧
    (k.enabled = true → (w.written - w.taken).toNat ≠ 1024 →
      let b := fun n : Nat => BitVec.ofNat 8 n
      let fields : Byte × Option CarrierId × Option TribId × List Byte := match e with
        | .tribSilent t c iw er quiet => (0x01, some c, some t, leBytes 2 iw.toNat ++ leBytes 2 er.toNat ++ [b quiet])
        | .tribRestored t before after marked =>
          (0x02, none, some t, leBytes 2 before.toNat ++ leBytes 2 after.toNat ++ [b marked])
        | .slip t c size lag => (0x03, some c, some t, leBytes 4 (BitVec.ofInt 32 size).toNat ++ leBytes 2 lag)
        | .lagLow t c smoothed target lag => (0x04, some c, some t, leBytes 2 smoothed ++ [b target, b lag])
        | .lagHigh t c smoothed target lag => (0x05, some c, some t, leBytes 2 smoothed ++ [b target, b lag])
        | .lagCentred t c smoothed target lag => (0x06, some c, some t, leBytes 2 smoothed ++ [b target, b lag])
        | .ingressJump t page skipped before =>
          (0x07, none, some t, [b page.toNat, b skipped.toNat] ++ leBytes 2 before.toNat)
        | .tribRetired t => (0x08, none, some t, [])
        | .readFault c source tag status late faults address =>
          (0x10, c, none, [b source.val, tag,
            match status with
            | .late => 2
            | .error => 3
            | other => other.code,
            b late, b faults, 0, 0, 0] ++ leBytes 4 address.toNat)
        | .readAbandoned c t entry address => (0x11, c, t, [b entry.val, 0, 0, 0] ++ leBytes 4 address.toNat)
        | .malformedRequest c source tag length address =>
          (0x12, some c, none, [b source.val, tag, length, 0] ++ leBytes 4 address.toNat)
        | .strayWrite c source address => (0x13, some c, none, [b source.val, 0, 0, 0] ++ leBytes 4 address.toNat)
        | .carrierPageJump c old new passed => (0x14, some c, none, [b old.toNat, b new.toNat, b passed.toNat])
        | .postRejected count done post =>
          (0x15, none, none, leBytes 2 count.toNat ++ leBytes 2 done.toNat ++ leBytes 2 post.toNat)
        | .monitorWrap counter note => (0x20, none, none, [b counter.val, 0, 0, 0] ++ leBytes 4 note.toNat)
        | .mark value => (0x30, none, none, leBytes 4 value.toNat)
      let header := [fields.1, b k.priority, b w.lost] ++
        (match fields.2.1 with
          | some c => [b c.val]
          | none => [0xFF]) ++
        (match fields.2.2.1 with
          | some t => leBytes 2 t.val
          | none => [0xFF, 0xFF]) ++ [0, 0] ++ leBytes 4 s.response.microseconds.toNat
      let record := header ++ fields.2.2.2 ++ List.replicate (20 - fields.2.2.2.length) 0
      let at_ := BitVec.ofNat 32 (0x0089_0000 + w.written.toNat % 1024 * 0x20)
      s.raise e = { s with
        mQueue := s.mQueue ++ [ownWrite at_ (wordOfBytes (record.take 16)),
          ownWrite (at_ + 16) (wordOfBytes ((record.drop 16).take 16)),
          ownWrite 0x0088_0020#32 ((w.written + 1).setWidth 128)]
        events := { w with
          written := w.written + 1, lost := 0, shadow := w.shadow ++ [k.priority],
          notice := (w.shadow ++ [k.priority]).any fun p => w.threshold < p } }) ∧
    (k.enabled = true → (w.written - w.taken).toNat = 1024 →
      (s.raise e).events = { w with lost := (s.raise e).events.lost } ∧
        min 255 (w.lost + 1) ≤ (s.raise e).events.lost ∧ (s.raise e).mQueue = s.mQueue) ∧
    (k.enabled = true → (w.written - w.taken).toNat = 1024 → w.lost ≤ 255 →
      let lost : State := { s with events := { w with lost := min 255 (w.lost + 1) } }
      let o : Occurrence := ⟨.eventsLost, 1, e.carrier, e.trib⟩
      s.raise e = lost.report o ∧ (s.raise e).events.lost ≤ 255 ∧
      ((∀ n : Fin 8, (s.counter n).admits o = true → (s.counter n).report = true →
          (s.counter n).count.toNat + 1 < 2 ^ 48) →
        s.raise e = { lost with monitor := (s.raise e).monitor } ∧
        ∀ n : Fin 8, (s.raise e).counter n =
          if (s.counter n).admits o then { s.counter n with count := (s.counter n).count + 1 } else s.counter n))

/-- An occurrence is added, modulo 2^48, to every counter whose source is its kind and whose enabled filters it passes,
and to no other; no setting of a counter changes (R174, R175). Each counter that the sum takes to 2^48 or more wraps, and where
its report enable is set one MONITOR-WRAP with its number and note is raised, to be written, lost or discarded like any other
event; of several at once in some order (log entry 3, DESIGN CHOICE) (R177). Only EVENTS-LOST counters, which the losses of
those reports may raise further, are left out of the first clause. An occurrence's amount is at most 8 (R177). -/
def Obligations.OccurrenceAddedWhereAdmitted : Prop :=
  ∀ (o : Occurrence) (s : State),
    let carrierPasses := fun k : Counter =>
      k.carrierFilter = false ∨ ∃ c, o.carrier = some c ∧ BitVec.ofNat 4 c.val &&& k.carrierMask = k.carrierMatch
    let tribPasses := fun k : Counter =>
      k.tribFilter = false ∨ ∃ t, o.trib = some t ∧ BitVec.ofNat 10 t.val &&& k.tribMask = k.tribMatch
    let counts := fun k : Counter => k.source = some o.kind ∧ carrierPasses k ∧ tribPasses k
    (∀ n : Fin 8, (s.counter n).source ≠ some .eventsLost →
      (counts (s.counter n) → (s.report o).counter n =
        { s.counter n with count := BitVec.ofNat 48 ((s.counter n).count.toNat + o.amount) }) ∧
      (¬counts (s.counter n) → (s.report o).counter n = s.counter n)) ∧
    (o.amount ≤ 8 → ∃ (x : State) (wraps : List (Fin 8)),
      x = { s with monitor := x.monitor, draws := x.draws } ∧
      (∀ n : Fin 8,
        (counts (s.counter n) → x.counter n =
          { s.counter n with count := BitVec.ofNat 48 ((s.counter n).count.toNat + o.amount) }) ∧
        (¬counts (s.counter n) → x.counter n = s.counter n)) ∧
      wraps.Nodup ∧
      (∀ n, n ∈ wraps ↔ counts (s.counter n) ∧ (s.counter n).report = true ∧
        2 ^ 48 ≤ (s.counter n).count.toNat + o.amount) ∧
      (wraps.length ≤ 1 → x.draws = s.draws) ∧
      s.report o = wraps.foldl (fun y n => y.raise (.monitorWrap n (s.counter n).note)) x)

/-- An evaluation ends with the fresh mark cleared, with a SILENT tributary's placement kept, or with a restart-pending one
recentred (R75, R76, R77). Else the quiet count rises or becomes 0 and the snapshot takes IW, and at the silence limit silence
is declared and nothing else moves (R78, R79). Else ER advances by 1; a lag of 0 or of 7 and above is slipped back to the
target lag, with the size lag less target, and any other takes no slip (R80 to R83); S moves by an eighth of 256 times the lag
less S, rounded toward zero (R85), and the drift state by the margins about the centre (R86). Of an ACTIVE tributary the lag is
then 1 to 6 and S within 256 to 1536 (R81, R85). Taken at a placement in carrier c, it writes its tributary's record, turns all
of a silenced tributary's positions in every carrier to ALARM, and raises TRIB-SILENT, or SLIP with one SLIPS occurrence, and a
drift event (R67, R79, R84, R87; SLIP before SLIPS by log entry 11, DEDUCED). -/
def Obligations.EvaluationKeepsLagInRange : Prop :=
  (∀ (limits : Limits) (tr : Tributary) (p : Placement), tr.state = .active → 2 ≤ tr.targetLag → tr.targetLag ≤ 5 →
    256 ≤ p.smoothed → p.smoothed ≤ 1536 →
    (p.fresh = true → p.er = tr.iw - BitVec.ofNat 16 tr.targetLag) →
    let e := evaluation limits tr p
    (e.outcome ≠ .silenced → 1 ≤ (tr.iw - e.placement.er).toNat ∧ (tr.iw - e.placement.er).toNat ≤ 6) ∧
    256 ≤ e.placement.smoothed ∧ e.placement.smoothed ≤ 1536 ∧
    (p.fresh = false → p.restartPending = true → e.outcome = .restart ∧
      e.placement.er = tr.iw - BitVec.ofNat 16 tr.targetLag ∧ e.placement.restartPending = false) ∧
    (p.fresh = false → p.restartPending = false → e.outcome ≠ .silenced →
      let lag := (tr.iw - (p.er + 1)).toNat
      (1 ≤ lag → lag ≤ 6 → e.slip = none ∧ e.outcome = .normal ∧ e.placement.er = p.er + 1) ∧
      (lag = 0 → e.outcome = .repeated ∧ e.slip = some ⟨-(tr.targetLag : Int), 0⟩ ∧
        e.placement.er = tr.iw - BitVec.ofNat 16 tr.targetLag) ∧
      (7 ≤ lag → e.outcome = .skipped ∧ e.slip = some ⟨(lag : Int) - tr.targetLag, lag⟩ ∧
        e.placement.er = tr.iw - BitVec.ofNat 16 tr.targetLag) ∧
      e.lag = (tr.iw - e.placement.er).toNat ∧
      (e.placement.smoothed : Int) = p.smoothed + (256 * (e.lag : Int) - p.smoothed).tdiv 8 ∧
      let S : Int := e.placement.smoothed
      let centre : Int := 256 * tr.targetLag
      e.placement.drift = (match p.drift with
        | .centred =>
          if S < centre - limits.enter then .low else if centre + limits.enter < S then .high else .centred
        | .low => if centre - limits.leave ≤ S then .centred else .low
        | .high => if S ≤ centre + limits.leave then .centred else .high) ∧
      e.moved = (if e.placement.drift = p.drift then none else some e.placement.drift) ∧
      e.placement = { p with
        er := e.placement.er, smoothed := e.placement.smoothed, drift := e.placement.drift, snapshot := tr.iw,
        quiet := if tr.iw = p.snapshot then p.quiet + 1 else 0 })) ∧
  (∀ (limits : Limits) (tr : Tributary) (p : Placement),
    let e := evaluation limits tr p
    let quiet := if tr.iw = p.snapshot then p.quiet + 1 else 0
    let stops := e.slip = none ∧ e.moved = none
    (p.fresh = true → e.outcome = .fresh ∧ e.placement = { p with fresh := false } ∧ stops) ∧
    (p.fresh = false → tr.state = .silent → e.outcome = .silentHold ∧ e.placement = p ∧ stops) ∧
    (p.fresh = false → tr.state ≠ .silent → p.restartPending = true → e.outcome = .restart ∧ stops ∧
      e.placement = { p with
        er := tr.iw - BitVec.ofNat 16 tr.targetLag, quiet := 0, snapshot := tr.iw, smoothed := 256 * tr.targetLag,
        drift := .centred, restartPending := false }) ∧
    (p.fresh = false → tr.state ≠ .silent → p.restartPending = false →
      (e.outcome = .silenced ↔ limits.silence ≤ quiet) ∧
      (limits.silence ≤ quiet → e.placement = { p with quiet := quiet, snapshot := tr.iw } ∧ stops))) ∧
  ∀ (s : State) (c : CarrierId) (t : TribId) (p : Placement), (s.trib t).placementIn c = some p →
    let e := evaluation s.processor.limits (s.trib t) p
    let u := s.evaluate c t
    u.trib t = (s.trib t).afterEvaluation c e ∧ SameOtherTribs s u t ∧
    (e.outcome ≠ .silenced → u.carriers = s.carriers) ∧
    (e.outcome = .silenced → ∀ d : CarrierId,
      u.carrier d = { s.carrier d with indications := (u.carrier d).indications } ∧
      ∀ i : Fin 240, (u.carrier d).indications[i] =
        if (s.carrier d).map[i].map (·.trib) = some t then .alarm else (s.carrier d).indications[i]) ∧
    u.change = s.change ∧ SameSurroundings s u ∧ SameProcessor s u ∧
    ReportsAs (s.withEvaluationReports t c (s.trib t) e) u

/-- The pick allocator takes, of the runs of w free positions, one with the fewest pieces, and of those the lowest start;
with none, SCATTER takes the w lowest free positions, and there is no list without SCATTER or with fewer than w free
(R9, R10). -/
def Obligations.PickTakesFewestPieces : Prop :=
  ∀ (w : Nat) (scatter : Bool) (own : Option TribId) (m : CarrierMap), 1 ≤ w → w ≤ 60 →
    let free := fun i : Nat => i < 240 ∧ (match m.toList.getD i none with
      | none => True
      | some e => own = some e.trib)
    let candidate := fun g0 : Nat => ∀ k, k < w → free (g0 + k)
    let pieces := fun g0 : Nat => 1 + ((List.range w).filter fun k => k ≠ 0 ∧ ((g0 + k) % 8 = 0 ∨ k % 8 = 0)).length
    ((∃ g0, candidate g0) → ∃ (ps : List Position) (g : Nat), pick? w scatter own m = some ps ∧
      ps.map (fun p => p.val) = (List.range w).map (g + ·) ∧ candidate g ∧
      ∀ g0, candidate g0 → pieces g < pieces g0 ∨ (pieces g = pieces g0 ∧ g ≤ g0)) ∧
    ((¬∃ g0, candidate g0) → scatter = false → pick? w scatter own m = none) ∧
    ((¬∃ g0, candidate g0) → scatter = true →
      (∀ ps, pick? w scatter own m = some ps → ps.length = w ∧ ps.Pairwise (· < ·) ∧ (∀ p ∈ ps, free p.val) ∧
        ∀ i : Position, free i.val → i ∉ ps → ∀ p ∈ ps, p < i) ∧
      (pick? w scatter own m = none ↔ (m.toList.countP fun e => match e with
        | none => true
        | some e => own == some e.trib) < w))

/-! ## Invariants -/

/-- Every step keeps the event writer sound: the shadow list matches the untaken records, at most 1024, and the notice
line matches the list (R161, R168). -/
def Obligations.EveryStepKeepsEventRing : Prop :=
  ∀ s t : State, s.events.Sound → step s = .next t → t.events.Sound

/-- Every step keeps the command processor, its fetch and its pending change in agreement, (P − D) mod 65536 at most 256
(R146, R147) and the limits in their ranges (R153). -/
def Obligations.EveryStepKeepsProcessor : Prop :=
  ∀ s t : State, s.ProcessorSound → step s = .next t → t.ProcessorSound

/-- Every step keeps at most 32 forwarded writes in the M-side queue (R135). -/
def Obligations.EveryStepKeepsForwardedWritesBounded : Prop :=
  ∀ s t : State, s.forwardedWrites ≤ 32 → step s = .next t → t.forwardedWrites ≤ 32

/-- Every step keeps each carrier's cost, mapped count, indication bytes and pending flag in agreement with its map and
the pending change (R1, R6, R16, R65). -/
def Obligations.EveryStepKeepsCarriers : Prop :=
  ∀ s t : State, s.ProcessorSound → s.TributariesSound → s.MapSound → s.CarriersSound → step s = .next t →
    t.CarriersSound

/-- Every step keeps each tributary's record sound and its in-flight count equal to the number of sub-read entries that
name it (R27, R29, R30, R34, R35, R85). -/
def Obligations.EveryStepKeepsTributaries : Prop :=
  ∀ s t : State, s.ProcessorSound → s.TributariesSound → step s = .next t → t.TributariesSound

/-- Every step keeps the maps and the placement records in agreement: an entry names a placed tributary and one of its
slots, each slot of each placement stands at one position, and the pending change's positions stay free for it (R1, R2,
R8, R31). -/
def Obligations.EveryStepKeepsMap : Prop :=
  ∀ s t : State, s.ProcessorSound → s.TributariesSound → s.MapSound → step s = .next t → t.MapSound

/-- Every step keeps the source lists, the ready responses and the outstanding counts in agreement with the two tables
(R94, R95, R107, R108). -/
def Obligations.EveryStepKeepsTranslationTables : Prop :=
  ∀ s t : State, s.translation.ListsSound → s.translation.AccountsSound → step s = .next t →
    t.translation.ListsSound ∧ t.translation.AccountsSound

/-- The state after reset meets every invariant. -/
def Obligations.ResetStateIsSound : Prop :=
  State.reset.events.Sound ∧ State.reset.ProcessorSound ∧ State.reset.forwardedWrites ≤ 32 ∧
    State.reset.CarriersSound ∧ State.reset.TributariesSound ∧ State.reset.MapSound ∧
    State.reset.translation.ListsSound ∧ State.reset.translation.AccountsSound

/-! ## The command record -/

/-- The record written for a command, 128 bytes, spells that command again, with every field at every value its place
holds (R149, R182, Figures 12-3 to 12-6). -/
def Obligations.CommandRecordRoundTrip : Prop :=
  ∀ c : Command, c.wellFormed = true → c.record.length = 128 ∧ Command.ofRecord c.record = c

end Statements
end

