-- ==== Sys2Proof/Laws/Bytes.lean ====
section
/-! SUPPORT. Byte order: numbers out of bytes and back, words out of bytes and back, and the fields of an M-tag. -/

namespace Sys2Proof.Machine

theorem natOfBytes_lt (bs : List Byte) : natOfBytes bs < 256 ^ bs.length := by
  induction bs with
  | nil => simp [natOfBytes]
  | cons b bs ih =>
    simp only [natOfBytes, List.length_cons, pow_succ]
    have := b.isLt
    omega

/-- Byte k of the number that bytes hold. -/
theorem natOfBytes_byte (bs : List Byte) (k : Nat) : natOfBytes bs / 256 ^ k % 256 = (bs.getD k 0).toNat := by
  induction bs generalizing k with
  | nil => simp [natOfBytes]
  | cons b bs ih =>
    have hb := b.isLt
    cases k with
    | zero => simp only [natOfBytes, pow_zero, Nat.div_one, List.getD_cons_zero]; omega
    | succ k =>
      rw [natOfBytes, pow_succ, Nat.mul_comm (256 ^ k), ← Nat.div_div_eq_div_mul]
      have : (b.toNat + 256 * natOfBytes bs) / 256 = natOfBytes bs := by omega
      rw [this, ih, List.getD_cons_succ]

@[simp] theorem length_leBytes (k n : Nat) : (leBytes k n).length = k := by
  induction k generalizing n with
  | zero => rfl
  | succ k ih => simp [leBytes, ih]

/-- A number comes back from its little-endian bytes. -/
theorem natOfBytes_leBytes (k n : Nat) : natOfBytes (leBytes k n) = n % 256 ^ k := by
  induction k generalizing n with
  | zero => simp [leBytes, natOfBytes, Nat.mod_one]
  | succ k ih =>
    have hb : (BitVec.ofNat 8 n).toNat = n % 256 := by simp
    rw [leBytes, natOfBytes, ih, hb, pow_succ, Nat.mul_comm (256 ^ k), Nat.mod_mul]

/-- Byte k of the word that bytes make. -/
theorem byteOf_wordOfBytes (bs : List Byte) (k : Nat) (hk : k < 16) : byteOf (wordOfBytes bs) k = bs.getD k 0 := by
  apply BitVec.eq_of_toNat_eq
  have h := natOfBytes_byte bs k
  rw [byteOf, BitVec.extractLsb'_toNat, wordOfBytes, BitVec.toNat_ofNat, Nat.shiftRight_eq_div_pow, pow_mul,
    ← h]
  have hd : (2 : Nat) ^ 128 = 256 ^ k * (256 * 256 ^ (15 - k)) := by
    rw [← pow_succ', ← pow_add]
    have : k + (15 - k + 1) = 16 := by omega
    rw [this]; rfl
  rw [hd, show (2 : Nat) ^ 8 = 256 from rfl, Nat.mod_mul_right_div_self]
  exact Nat.mod_mul_right_mod _ _ _

/-- Sixteen bytes come back from the word they make. -/
theorem bytesOfWord_wordOfBytes (bs : List Byte) (h : bs.length = 16) : bytesOfWord (wordOfBytes bs) = bs := by
  apply List.ext_getElem
  · simp [bytesOfWord, h]
  · intro i h1 h2
    have hi : i < 16 := by simpa [bytesOfWord] using h1
    simp only [bytesOfWord, List.getElem_map, List.getElem_range]
    rw [byteOf_wordOfBytes _ _ hi, List.getD_eq_getElem _ _ h2]

@[simp] theorem length_wordsOfBytes (n : Nat) (bs : List Byte) : (wordsOfBytes n bs).length = n := by
  induction n generalizing bs with
  | zero => rfl
  | succ n ih => simp [wordsOfBytes, ih]

theorem flatMap_wordsOfBytes (n : Nat) (bs : List Byte) (h : bs.length = 16 * n) :
    (wordsOfBytes n bs).flatMap bytesOfWord = bs := by
  induction n generalizing bs with
  | zero => simpa [wordsOfBytes] using (List.length_eq_zero_iff.1 h).symm
  | succ n ih =>
    rw [wordsOfBytes, List.flatMap_cons, ih _ (by simp [h]; omega),
      bytesOfWord_wordOfBytes _ (by simp [h]), List.take_append_drop]

/-- The record that the eight words of a fetch answer carry is the record that was written there (R129). -/
theorem recordOfWords_wordsOfBytes (bs : List Byte) (more : List Word) (h : bs.length = 128) :
    recordOfWords (wordsOfBytes 8 bs ++ more) = bs := by
  rw [recordOfWords, List.take_append_of_le_length (by simp), List.take_of_length_le (by simp),
    flatMap_wordsOfBytes 8 bs (by omega)]

/-! ## The fields of an M-tag (Figure 12-2) -/

theorem mTag_toNat (entry : Nat) (generation : BitVec 2) (fetchPool epoch : Bool) :
    (mTag entry generation fetchPool epoch).toNat =
      entry % 256 + generation.toNat * 0x100 + (if fetchPool then 0x400 else 0) + (if epoch then 0x800 else 0) := by
  have := generation.isLt
  rw [mTag, BitVec.toNat_ofNat, Nat.mod_eq_of_lt]
  split <;> split <;> omega

@[simp] theorem tagEntry_mTag (entry : Nat) (generation : BitVec 2) (fetchPool epoch : Bool) :
    tagEntry (mTag entry generation fetchPool epoch) = entry % 256 := by
  have := generation.isLt
  rw [tagEntry, BitVec.extractLsb'_toNat, mTag_toNat, Nat.shiftRight_zero]
  split <;> split <;> omega

@[simp] theorem tagGeneration_mTag (entry : Nat) (generation : BitVec 2) (fetchPool epoch : Bool) :
    tagGeneration (mTag entry generation fetchPool epoch) = generation := by
  have := generation.isLt
  apply BitVec.eq_of_toNat_eq
  rw [tagGeneration, BitVec.extractLsb'_toNat, mTag_toNat, Nat.shiftRight_eq_div_pow]
  split <;> split <;> omega

@[simp] theorem tagFetchPool_mTag (entry : Nat) (generation : BitVec 2) (fetchPool epoch : Bool) :
    tagFetchPool (mTag entry generation fetchPool epoch) = fetchPool := by
  have := generation.isLt
  rw [tagFetchPool, BitVec.getLsbD, mTag_toNat, Nat.testBit_eq_decide_div_mod_eq]
  cases fetchPool <;> cases epoch <;> simp <;> omega

@[simp] theorem tagEpoch_mTag (entry : Nat) (generation : BitVec 2) (fetchPool epoch : Bool) :
    tagEpoch (mTag entry generation fetchPool epoch) = epoch := by
  have := generation.isLt
  rw [tagEpoch, BitVec.getLsbD, mTag_toNat, Nat.testBit_eq_decide_div_mod_eq]
  cases fetchPool <;> cases epoch <;> simp <;> omega

end Sys2Proof.Machine
end

