-- ==== Sys2Proof/Laws/Tables.lean ====
section
/-! SUPPORT. The tables' own functions: entries of a mapped or tabulated table, the lowest entry, the free orders. -/

namespace Sys2Proof.Machine

@[simp] theorem mapTable_get (f : α → β) (v : Vector α n) (i : Fin n) : (mapTable f v)[i] = f v[i] := by
  simp [mapTable]

@[simp] theorem mapTable_getElem (f : α → β) (v : Vector α n) (i : Nat) (h : i < n) : (mapTable f v)[i] = f v[i] := by
  simp [mapTable]

@[simp] theorem tabulate_get (f : Fin n → α) (i : Fin n) : (tabulate f)[i] = f i := by
  simp [tabulate]

@[simp] theorem tabulate_getElem (f : Fin n → α) (i : Nat) (h : i < n) : (tabulate f)[i] = f ⟨i, h⟩ := by
  simp [tabulate]

@[simp] theorem toList_mapTable (f : α → β) (v : Vector α n) : (mapTable f v).toList = v.toList.map f := by
  simp [mapTable, Vector.toList]

/-- The lowest entry satisfies the test, and no lower one does. -/
theorem lowest?_spec {p : α → Bool} {v : Vector α n} {i : Fin n} (h : lowest? p v = some i) :
    p v[i] = true ∧ ∀ j : Fin n, j < i → p v[j] = false := by
  unfold lowest? at h
  refine ⟨by simpa using List.find?_some h, fun j hj => ?_⟩
  obtain ⟨_, as, bs, hl, hall⟩ := List.find?_eq_some_iff_append.1 h
  have hmem : j ∈ as := by
    have hs : (List.finRange n).Pairwise (· < ·) := List.pairwise_lt_finRange n
    have hj' : j ∈ List.finRange n := List.mem_finRange j
    rw [hl] at hj' hs
    rcases List.mem_append.1 hj' with h' | h'
    · exact h'
    · rcases List.mem_cons.1 h' with h'' | h''
      · exact absurd h'' (ne_of_lt hj)
      · have := (List.pairwise_append.1 hs).2.1
        exact absurd ((List.pairwise_cons.1 this).1 j h'') (not_lt.2 hj.le)
  simpa using hall j hmem

/-- There is no lowest entry exactly when no entry satisfies the test. -/
theorem lowest?_eq_none {p : α → Bool} {v : Vector α n} : lowest? p v = none ↔ ∀ i : Fin n, p v[i] = false := by
  simp [lowest?, List.find?_eq_none]

theorem insertByKey_perm (key : α → Nat) (x : α) (l : List α) : (insertByKey key x l).Perm (x :: l) := by
  induction l with
  | nil => exact .refl _
  | cons y ys ih =>
    unfold insertByKey
    split
    · exact .refl _
    · exact (ih.cons y).trans (.swap x y ys)

/-- A free order holds the same items. -/
theorem orderByKey_perm (key : α → Nat) (l : List α) : (orderByKey key l).Perm l := by
  induction l with
  | nil => exact .refl _
  | cons x xs ih => exact (insertByKey_perm key x _).trans (ih.cons x)

@[simp] theorem mem_orderByKey (key : α → Nat) (l : List α) (x : α) : x ∈ orderByKey key l ↔ x ∈ l :=
  (orderByKey_perm key l).mem_iff

@[simp] theorem length_orderByKey (key : α → Nat) (l : List α) : (orderByKey key l).length = l.length :=
  (orderByKey_perm key l).length_eq

@[simp] theorem orderByKey_nil (key : α → Nat) : orderByKey key [] = [] := rfl

@[simp] theorem orderByKey_singleton (key : α → Nat) (x : α) : orderByKey key [x] = [x] := rfl

end Sys2Proof.Machine
end

