-- ==== Sys2Proof/Laws/State.lean ====
section
/-! SUPPORT. What each update of the state leaves in each field: one lemma for each field and update. -/

namespace Sys2Proof.Machine

variable (s : State)

/-! ### setTrib -/

@[simp] theorem State.setTrib_tributaries (t : TribId) (r : Tributary) : (s.setTrib t r).tributaries = s.tributaries.set t r := rfl
@[simp] theorem State.setTrib_carriers (t : TribId) (r : Tributary) : (s.setTrib t r).carriers = s.carriers := rfl
@[simp] theorem State.setTrib_change (t : TribId) (r : Tributary) : (s.setTrib t r).change = s.change := rfl
@[simp] theorem State.setTrib_translation (t : TribId) (r : Tributary) : (s.setTrib t r).translation = s.translation := rfl
@[simp] theorem State.setTrib_response (t : TribId) (r : Tributary) : (s.setTrib t r).response = s.response := rfl
@[simp] theorem State.setTrib_processor (t : TribId) (r : Tributary) : (s.setTrib t r).processor = s.processor := rfl
@[simp] theorem State.setTrib_events (t : TribId) (r : Tributary) : (s.setTrib t r).events = s.events := rfl
@[simp] theorem State.setTrib_monitor (t : TribId) (r : Tributary) : (s.setTrib t r).monitor = s.monitor := rfl
@[simp] theorem State.setTrib_mQueue (t : TribId) (r : Tributary) : (s.setTrib t r).mQueue = s.mQueue := rfl
@[simp] theorem State.setTrib_channel (t : TribId) (r : Tributary) : (s.setTrib t r).channel = s.channel := rfl
@[simp] theorem State.setTrib_outputs (t : TribId) (r : Tributary) : (s.setTrib t r).outputs = s.outputs := rfl
@[simp] theorem State.setTrib_draws (t : TribId) (r : Tributary) : (s.setTrib t r).draws = s.draws := rfl
@[simp] theorem State.setTrib_pending (t : TribId) (r : Tributary) : (s.setTrib t r).pending = s.pending := rfl
@[simp] theorem State.setTrib_carrier (t : TribId) (r : Tributary) (x : CarrierId) : (s.setTrib t r).carrier x = s.carrier x := rfl
@[simp] theorem State.setTrib_parent (t : TribId) (r : Tributary) (x : Fin 32) : (s.setTrib t r).parent x = s.parent x := rfl
@[simp] theorem State.setTrib_sub (t : TribId) (r : Tributary) (x : Fin 64) : (s.setTrib t r).sub x = s.sub x := rfl
@[simp] theorem State.setTrib_sourceList (t : TribId) (r : Tributary) (x : Source) : (s.setTrib t r).sourceList x = s.sourceList x := rfl
@[simp] theorem State.setTrib_counter (t : TribId) (r : Tributary) (x : Fin 8) : (s.setTrib t r).counter x = s.counter x := rfl

/-! ### setCarrier -/

@[simp] theorem State.setCarrier_tributaries (c : CarrierId) (r : Carrier) : (s.setCarrier c r).tributaries = s.tributaries := rfl
@[simp] theorem State.setCarrier_carriers (c : CarrierId) (r : Carrier) : (s.setCarrier c r).carriers = s.carriers.set c r := rfl
@[simp] theorem State.setCarrier_change (c : CarrierId) (r : Carrier) : (s.setCarrier c r).change = s.change := rfl
@[simp] theorem State.setCarrier_translation (c : CarrierId) (r : Carrier) : (s.setCarrier c r).translation = s.translation := rfl
@[simp] theorem State.setCarrier_response (c : CarrierId) (r : Carrier) : (s.setCarrier c r).response = s.response := rfl
@[simp] theorem State.setCarrier_processor (c : CarrierId) (r : Carrier) : (s.setCarrier c r).processor = s.processor := rfl
@[simp] theorem State.setCarrier_events (c : CarrierId) (r : Carrier) : (s.setCarrier c r).events = s.events := rfl
@[simp] theorem State.setCarrier_monitor (c : CarrierId) (r : Carrier) : (s.setCarrier c r).monitor = s.monitor := rfl
@[simp] theorem State.setCarrier_mQueue (c : CarrierId) (r : Carrier) : (s.setCarrier c r).mQueue = s.mQueue := rfl
@[simp] theorem State.setCarrier_channel (c : CarrierId) (r : Carrier) : (s.setCarrier c r).channel = s.channel := rfl
@[simp] theorem State.setCarrier_outputs (c : CarrierId) (r : Carrier) : (s.setCarrier c r).outputs = s.outputs := rfl
@[simp] theorem State.setCarrier_draws (c : CarrierId) (r : Carrier) : (s.setCarrier c r).draws = s.draws := rfl
@[simp] theorem State.setCarrier_pending (c : CarrierId) (r : Carrier) : (s.setCarrier c r).pending = s.pending := rfl
@[simp] theorem State.setCarrier_trib (c : CarrierId) (r : Carrier) (x : TribId) : (s.setCarrier c r).trib x = s.trib x := rfl
@[simp] theorem State.setCarrier_parent (c : CarrierId) (r : Carrier) (x : Fin 32) : (s.setCarrier c r).parent x = s.parent x := rfl
@[simp] theorem State.setCarrier_sub (c : CarrierId) (r : Carrier) (x : Fin 64) : (s.setCarrier c r).sub x = s.sub x := rfl
@[simp] theorem State.setCarrier_sourceList (c : CarrierId) (r : Carrier) (x : Source) : (s.setCarrier c r).sourceList x = s.sourceList x := rfl
@[simp] theorem State.setCarrier_counter (c : CarrierId) (r : Carrier) (x : Fin 8) : (s.setCarrier c r).counter x = s.counter x := rfl

/-! ### setParent -/

@[simp] theorem State.setParent_tributaries (i : Fin 32) (r : Parent) : (s.setParent i r).tributaries = s.tributaries := rfl
@[simp] theorem State.setParent_carriers (i : Fin 32) (r : Parent) : (s.setParent i r).carriers = s.carriers := rfl
@[simp] theorem State.setParent_change (i : Fin 32) (r : Parent) : (s.setParent i r).change = s.change := rfl
@[simp] theorem State.setParent_response (i : Fin 32) (r : Parent) : (s.setParent i r).response = s.response := rfl
@[simp] theorem State.setParent_processor (i : Fin 32) (r : Parent) : (s.setParent i r).processor = s.processor := rfl
@[simp] theorem State.setParent_events (i : Fin 32) (r : Parent) : (s.setParent i r).events = s.events := rfl
@[simp] theorem State.setParent_monitor (i : Fin 32) (r : Parent) : (s.setParent i r).monitor = s.monitor := rfl
@[simp] theorem State.setParent_mQueue (i : Fin 32) (r : Parent) : (s.setParent i r).mQueue = s.mQueue := rfl
@[simp] theorem State.setParent_channel (i : Fin 32) (r : Parent) : (s.setParent i r).channel = s.channel := rfl
@[simp] theorem State.setParent_outputs (i : Fin 32) (r : Parent) : (s.setParent i r).outputs = s.outputs := rfl
@[simp] theorem State.setParent_draws (i : Fin 32) (r : Parent) : (s.setParent i r).draws = s.draws := rfl
@[simp] theorem State.setParent_pending (i : Fin 32) (r : Parent) : (s.setParent i r).pending = s.pending := rfl
@[simp] theorem State.setParent_trib (i : Fin 32) (r : Parent) (x : TribId) : (s.setParent i r).trib x = s.trib x := rfl
@[simp] theorem State.setParent_carrier (i : Fin 32) (r : Parent) (x : CarrierId) : (s.setParent i r).carrier x = s.carrier x := rfl
@[simp] theorem State.setParent_sub (i : Fin 32) (r : Parent) (x : Fin 64) : (s.setParent i r).sub x = s.sub x := rfl
@[simp] theorem State.setParent_sourceList (i : Fin 32) (r : Parent) (x : Source) : (s.setParent i r).sourceList x = s.sourceList x := rfl
@[simp] theorem State.setParent_counter (i : Fin 32) (r : Parent) (x : Fin 8) : (s.setParent i r).counter x = s.counter x := rfl

/-! ### setSub -/

@[simp] theorem State.setSub_tributaries (i : Fin 64) (r : SubRead) : (s.setSub i r).tributaries = s.tributaries := rfl
@[simp] theorem State.setSub_carriers (i : Fin 64) (r : SubRead) : (s.setSub i r).carriers = s.carriers := rfl
@[simp] theorem State.setSub_change (i : Fin 64) (r : SubRead) : (s.setSub i r).change = s.change := rfl
@[simp] theorem State.setSub_response (i : Fin 64) (r : SubRead) : (s.setSub i r).response = s.response := rfl
@[simp] theorem State.setSub_processor (i : Fin 64) (r : SubRead) : (s.setSub i r).processor = s.processor := rfl
@[simp] theorem State.setSub_events (i : Fin 64) (r : SubRead) : (s.setSub i r).events = s.events := rfl
@[simp] theorem State.setSub_monitor (i : Fin 64) (r : SubRead) : (s.setSub i r).monitor = s.monitor := rfl
@[simp] theorem State.setSub_mQueue (i : Fin 64) (r : SubRead) : (s.setSub i r).mQueue = s.mQueue := rfl
@[simp] theorem State.setSub_channel (i : Fin 64) (r : SubRead) : (s.setSub i r).channel = s.channel := rfl
@[simp] theorem State.setSub_outputs (i : Fin 64) (r : SubRead) : (s.setSub i r).outputs = s.outputs := rfl
@[simp] theorem State.setSub_draws (i : Fin 64) (r : SubRead) : (s.setSub i r).draws = s.draws := rfl
@[simp] theorem State.setSub_pending (i : Fin 64) (r : SubRead) : (s.setSub i r).pending = s.pending := rfl
@[simp] theorem State.setSub_trib (i : Fin 64) (r : SubRead) (x : TribId) : (s.setSub i r).trib x = s.trib x := rfl
@[simp] theorem State.setSub_carrier (i : Fin 64) (r : SubRead) (x : CarrierId) : (s.setSub i r).carrier x = s.carrier x := rfl
@[simp] theorem State.setSub_parent (i : Fin 64) (r : SubRead) (x : Fin 32) : (s.setSub i r).parent x = s.parent x := rfl
@[simp] theorem State.setSub_sourceList (i : Fin 64) (r : SubRead) (x : Source) : (s.setSub i r).sourceList x = s.sourceList x := rfl
@[simp] theorem State.setSub_counter (i : Fin 64) (r : SubRead) (x : Fin 8) : (s.setSub i r).counter x = s.counter x := rfl

/-! ### setSourceList -/

@[simp] theorem State.setSourceList_tributaries (src : Source) (l : List (Fin 32)) : (s.setSourceList src l).tributaries = s.tributaries := rfl
@[simp] theorem State.setSourceList_carriers (src : Source) (l : List (Fin 32)) : (s.setSourceList src l).carriers = s.carriers := rfl
@[simp] theorem State.setSourceList_change (src : Source) (l : List (Fin 32)) : (s.setSourceList src l).change = s.change := rfl
@[simp] theorem State.setSourceList_response (src : Source) (l : List (Fin 32)) : (s.setSourceList src l).response = s.response := rfl
@[simp] theorem State.setSourceList_processor (src : Source) (l : List (Fin 32)) : (s.setSourceList src l).processor = s.processor := rfl
@[simp] theorem State.setSourceList_events (src : Source) (l : List (Fin 32)) : (s.setSourceList src l).events = s.events := rfl
@[simp] theorem State.setSourceList_monitor (src : Source) (l : List (Fin 32)) : (s.setSourceList src l).monitor = s.monitor := rfl
@[simp] theorem State.setSourceList_mQueue (src : Source) (l : List (Fin 32)) : (s.setSourceList src l).mQueue = s.mQueue := rfl
@[simp] theorem State.setSourceList_channel (src : Source) (l : List (Fin 32)) : (s.setSourceList src l).channel = s.channel := rfl
@[simp] theorem State.setSourceList_outputs (src : Source) (l : List (Fin 32)) : (s.setSourceList src l).outputs = s.outputs := rfl
@[simp] theorem State.setSourceList_draws (src : Source) (l : List (Fin 32)) : (s.setSourceList src l).draws = s.draws := rfl
@[simp] theorem State.setSourceList_pending (src : Source) (l : List (Fin 32)) : (s.setSourceList src l).pending = s.pending := rfl
@[simp] theorem State.setSourceList_trib (src : Source) (l : List (Fin 32)) (x : TribId) : (s.setSourceList src l).trib x = s.trib x := rfl
@[simp] theorem State.setSourceList_carrier (src : Source) (l : List (Fin 32)) (x : CarrierId) : (s.setSourceList src l).carrier x = s.carrier x := rfl
@[simp] theorem State.setSourceList_parent (src : Source) (l : List (Fin 32)) (x : Fin 32) : (s.setSourceList src l).parent x = s.parent x := rfl
@[simp] theorem State.setSourceList_sub (src : Source) (l : List (Fin 32)) (x : Fin 64) : (s.setSourceList src l).sub x = s.sub x := rfl
@[simp] theorem State.setSourceList_counter (src : Source) (l : List (Fin 32)) (x : Fin 8) : (s.setSourceList src l).counter x = s.counter x := rfl

/-! ### refreshReady -/

@[simp] theorem State.refreshReady_tributaries : (s.refreshReady).tributaries = s.tributaries := rfl
@[simp] theorem State.refreshReady_carriers : (s.refreshReady).carriers = s.carriers := rfl
@[simp] theorem State.refreshReady_change : (s.refreshReady).change = s.change := rfl
@[simp] theorem State.refreshReady_response : (s.refreshReady).response = s.response := rfl
@[simp] theorem State.refreshReady_processor : (s.refreshReady).processor = s.processor := rfl
@[simp] theorem State.refreshReady_events : (s.refreshReady).events = s.events := rfl
@[simp] theorem State.refreshReady_monitor : (s.refreshReady).monitor = s.monitor := rfl
@[simp] theorem State.refreshReady_mQueue : (s.refreshReady).mQueue = s.mQueue := rfl
@[simp] theorem State.refreshReady_channel : (s.refreshReady).channel = s.channel := rfl
@[simp] theorem State.refreshReady_outputs : (s.refreshReady).outputs = s.outputs := rfl
@[simp] theorem State.refreshReady_draws : (s.refreshReady).draws = s.draws := rfl
@[simp] theorem State.refreshReady_pending : (s.refreshReady).pending = s.pending := rfl
@[simp] theorem State.refreshReady_trib (x : TribId) : (s.refreshReady).trib x = s.trib x := rfl
@[simp] theorem State.refreshReady_carrier (x : CarrierId) : (s.refreshReady).carrier x = s.carrier x := rfl
@[simp] theorem State.refreshReady_parent (x : Fin 32) : (s.refreshReady).parent x = s.parent x := rfl
@[simp] theorem State.refreshReady_sub (x : Fin 64) : (s.refreshReady).sub x = s.sub x := rfl
@[simp] theorem State.refreshReady_sourceList (x : Source) : (s.refreshReady).sourceList x = s.sourceList x := rfl
@[simp] theorem State.refreshReady_counter (x : Fin 8) : (s.refreshReady).counter x = s.counter x := rfl

/-! ### enqueue -/

@[simp] theorem State.enqueue_tributaries (rs : List MRequest) : (s.enqueue rs).tributaries = s.tributaries := rfl
@[simp] theorem State.enqueue_carriers (rs : List MRequest) : (s.enqueue rs).carriers = s.carriers := rfl
@[simp] theorem State.enqueue_change (rs : List MRequest) : (s.enqueue rs).change = s.change := rfl
@[simp] theorem State.enqueue_translation (rs : List MRequest) : (s.enqueue rs).translation = s.translation := rfl
@[simp] theorem State.enqueue_response (rs : List MRequest) : (s.enqueue rs).response = s.response := rfl
@[simp] theorem State.enqueue_processor (rs : List MRequest) : (s.enqueue rs).processor = s.processor := rfl
@[simp] theorem State.enqueue_events (rs : List MRequest) : (s.enqueue rs).events = s.events := rfl
@[simp] theorem State.enqueue_monitor (rs : List MRequest) : (s.enqueue rs).monitor = s.monitor := rfl
@[simp] theorem State.enqueue_mQueue (rs : List MRequest) : (s.enqueue rs).mQueue = s.mQueue ++ rs := rfl
@[simp] theorem State.enqueue_channel (rs : List MRequest) : (s.enqueue rs).channel = s.channel := rfl
@[simp] theorem State.enqueue_outputs (rs : List MRequest) : (s.enqueue rs).outputs = s.outputs := rfl
@[simp] theorem State.enqueue_draws (rs : List MRequest) : (s.enqueue rs).draws = s.draws := rfl
@[simp] theorem State.enqueue_pending (rs : List MRequest) : (s.enqueue rs).pending = s.pending := rfl
@[simp] theorem State.enqueue_trib (rs : List MRequest) (x : TribId) : (s.enqueue rs).trib x = s.trib x := rfl
@[simp] theorem State.enqueue_carrier (rs : List MRequest) (x : CarrierId) : (s.enqueue rs).carrier x = s.carrier x := rfl
@[simp] theorem State.enqueue_parent (rs : List MRequest) (x : Fin 32) : (s.enqueue rs).parent x = s.parent x := rfl
@[simp] theorem State.enqueue_sub (rs : List MRequest) (x : Fin 64) : (s.enqueue rs).sub x = s.sub x := rfl
@[simp] theorem State.enqueue_sourceList (rs : List MRequest) (x : Source) : (s.enqueue rs).sourceList x = s.sourceList x := rfl
@[simp] theorem State.enqueue_counter (rs : List MRequest) (x : Fin 8) : (s.enqueue rs).counter x = s.counter x := rfl

/-! ### setCounter -/

@[simp] theorem State.setCounter_tributaries (k : Fin 8) (r : Counter) : (s.setCounter k r).tributaries = s.tributaries := rfl
@[simp] theorem State.setCounter_carriers (k : Fin 8) (r : Counter) : (s.setCounter k r).carriers = s.carriers := rfl
@[simp] theorem State.setCounter_change (k : Fin 8) (r : Counter) : (s.setCounter k r).change = s.change := rfl
@[simp] theorem State.setCounter_translation (k : Fin 8) (r : Counter) : (s.setCounter k r).translation = s.translation := rfl
@[simp] theorem State.setCounter_response (k : Fin 8) (r : Counter) : (s.setCounter k r).response = s.response := rfl
@[simp] theorem State.setCounter_processor (k : Fin 8) (r : Counter) : (s.setCounter k r).processor = s.processor := rfl
@[simp] theorem State.setCounter_events (k : Fin 8) (r : Counter) : (s.setCounter k r).events = s.events := rfl
@[simp] theorem State.setCounter_monitor (k : Fin 8) (r : Counter) : (s.setCounter k r).monitor = s.monitor.set k r := rfl
@[simp] theorem State.setCounter_mQueue (k : Fin 8) (r : Counter) : (s.setCounter k r).mQueue = s.mQueue := rfl
@[simp] theorem State.setCounter_channel (k : Fin 8) (r : Counter) : (s.setCounter k r).channel = s.channel := rfl
@[simp] theorem State.setCounter_outputs (k : Fin 8) (r : Counter) : (s.setCounter k r).outputs = s.outputs := rfl
@[simp] theorem State.setCounter_draws (k : Fin 8) (r : Counter) : (s.setCounter k r).draws = s.draws := rfl
@[simp] theorem State.setCounter_pending (k : Fin 8) (r : Counter) : (s.setCounter k r).pending = s.pending := rfl
@[simp] theorem State.setCounter_trib (k : Fin 8) (r : Counter) (x : TribId) : (s.setCounter k r).trib x = s.trib x := rfl
@[simp] theorem State.setCounter_carrier (k : Fin 8) (r : Counter) (x : CarrierId) : (s.setCounter k r).carrier x = s.carrier x := rfl
@[simp] theorem State.setCounter_parent (k : Fin 8) (r : Counter) (x : Fin 32) : (s.setCounter k r).parent x = s.parent x := rfl
@[simp] theorem State.setCounter_sub (k : Fin 8) (r : Counter) (x : Fin 64) : (s.setCounter k r).sub x = s.sub x := rfl
@[simp] theorem State.setCounter_sourceList (k : Fin 8) (r : Counter) (x : Source) : (s.setCounter k r).sourceList x = s.sourceList x := rfl

/-! ### countOccurrence -/

@[simp] theorem State.countOccurrence_tributaries (o : Occurrence) : (s.countOccurrence o).tributaries = s.tributaries := rfl
@[simp] theorem State.countOccurrence_carriers (o : Occurrence) : (s.countOccurrence o).carriers = s.carriers := rfl
@[simp] theorem State.countOccurrence_change (o : Occurrence) : (s.countOccurrence o).change = s.change := rfl
@[simp] theorem State.countOccurrence_translation (o : Occurrence) : (s.countOccurrence o).translation = s.translation := rfl
@[simp] theorem State.countOccurrence_response (o : Occurrence) : (s.countOccurrence o).response = s.response := rfl
@[simp] theorem State.countOccurrence_processor (o : Occurrence) : (s.countOccurrence o).processor = s.processor := rfl
@[simp] theorem State.countOccurrence_events (o : Occurrence) : (s.countOccurrence o).events = s.events := rfl
@[simp] theorem State.countOccurrence_monitor (o : Occurrence) : (s.countOccurrence o).monitor = mapTable (·.after o) s.monitor := rfl
@[simp] theorem State.countOccurrence_mQueue (o : Occurrence) : (s.countOccurrence o).mQueue = s.mQueue := rfl
@[simp] theorem State.countOccurrence_channel (o : Occurrence) : (s.countOccurrence o).channel = s.channel := rfl
@[simp] theorem State.countOccurrence_outputs (o : Occurrence) : (s.countOccurrence o).outputs = s.outputs := rfl
@[simp] theorem State.countOccurrence_pending (o : Occurrence) : (s.countOccurrence o).pending = s.pending := rfl
@[simp] theorem State.countOccurrence_trib (o : Occurrence) (x : TribId) : (s.countOccurrence o).trib x = s.trib x := rfl
@[simp] theorem State.countOccurrence_carrier (o : Occurrence) (x : CarrierId) : (s.countOccurrence o).carrier x = s.carrier x := rfl
@[simp] theorem State.countOccurrence_parent (o : Occurrence) (x : Fin 32) : (s.countOccurrence o).parent x = s.parent x := rfl
@[simp] theorem State.countOccurrence_sub (o : Occurrence) (x : Fin 64) : (s.countOccurrence o).sub x = s.sub x := rfl
@[simp] theorem State.countOccurrence_sourceList (o : Occurrence) (x : Source) : (s.countOccurrence o).sourceList x = s.sourceList x := rfl

/-! ### writeEvent -/

@[simp] theorem State.writeEvent_tributaries (e : Event) : (s.writeEvent e).tributaries = s.tributaries := rfl
@[simp] theorem State.writeEvent_carriers (e : Event) : (s.writeEvent e).carriers = s.carriers := rfl
@[simp] theorem State.writeEvent_change (e : Event) : (s.writeEvent e).change = s.change := rfl
@[simp] theorem State.writeEvent_translation (e : Event) : (s.writeEvent e).translation = s.translation := rfl
@[simp] theorem State.writeEvent_response (e : Event) : (s.writeEvent e).response = s.response := rfl
@[simp] theorem State.writeEvent_processor (e : Event) : (s.writeEvent e).processor = s.processor := rfl
@[simp] theorem State.writeEvent_monitor (e : Event) : (s.writeEvent e).monitor = s.monitor := rfl
@[simp] theorem State.writeEvent_channel (e : Event) : (s.writeEvent e).channel = s.channel := rfl
@[simp] theorem State.writeEvent_outputs (e : Event) : (s.writeEvent e).outputs = s.outputs := rfl
@[simp] theorem State.writeEvent_draws (e : Event) : (s.writeEvent e).draws = s.draws := rfl
@[simp] theorem State.writeEvent_pending (e : Event) : (s.writeEvent e).pending = s.pending := rfl
@[simp] theorem State.writeEvent_trib (e : Event) (x : TribId) : (s.writeEvent e).trib x = s.trib x := rfl
@[simp] theorem State.writeEvent_carrier (e : Event) (x : CarrierId) : (s.writeEvent e).carrier x = s.carrier x := rfl
@[simp] theorem State.writeEvent_parent (e : Event) (x : Fin 32) : (s.writeEvent e).parent x = s.parent x := rfl
@[simp] theorem State.writeEvent_sub (e : Event) (x : Fin 64) : (s.writeEvent e).sub x = s.sub x := rfl
@[simp] theorem State.writeEvent_sourceList (e : Event) (x : Source) : (s.writeEvent e).sourceList x = s.sourceList x := rfl
@[simp] theorem State.writeEvent_counter (e : Event) (x : Fin 8) : (s.writeEvent e).counter x = s.counter x := rfl

/-! ### loseEvent -/

@[simp] theorem State.loseEvent_tributaries : (s.loseEvent).tributaries = s.tributaries := rfl
@[simp] theorem State.loseEvent_carriers : (s.loseEvent).carriers = s.carriers := rfl
@[simp] theorem State.loseEvent_change : (s.loseEvent).change = s.change := rfl
@[simp] theorem State.loseEvent_translation : (s.loseEvent).translation = s.translation := rfl
@[simp] theorem State.loseEvent_response : (s.loseEvent).response = s.response := rfl
@[simp] theorem State.loseEvent_processor : (s.loseEvent).processor = s.processor := rfl
@[simp] theorem State.loseEvent_monitor : (s.loseEvent).monitor = s.monitor := rfl
@[simp] theorem State.loseEvent_mQueue : (s.loseEvent).mQueue = s.mQueue := rfl
@[simp] theorem State.loseEvent_channel : (s.loseEvent).channel = s.channel := rfl
@[simp] theorem State.loseEvent_outputs : (s.loseEvent).outputs = s.outputs := rfl
@[simp] theorem State.loseEvent_draws : (s.loseEvent).draws = s.draws := rfl
@[simp] theorem State.loseEvent_pending : (s.loseEvent).pending = s.pending := rfl
@[simp] theorem State.loseEvent_trib (x : TribId) : (s.loseEvent).trib x = s.trib x := rfl
@[simp] theorem State.loseEvent_carrier (x : CarrierId) : (s.loseEvent).carrier x = s.carrier x := rfl
@[simp] theorem State.loseEvent_parent (x : Fin 32) : (s.loseEvent).parent x = s.parent x := rfl
@[simp] theorem State.loseEvent_sub (x : Fin 64) : (s.loseEvent).sub x = s.sub x := rfl
@[simp] theorem State.loseEvent_sourceList (x : Source) : (s.loseEvent).sourceList x = s.sourceList x := rfl
@[simp] theorem State.loseEvent_counter (x : Fin 8) : (s.loseEvent).counter x = s.counter x := rfl

/-! ### freeFetch -/

@[simp] theorem State.freeFetch_tributaries : (s.freeFetch).tributaries = s.tributaries := rfl
@[simp] theorem State.freeFetch_carriers : (s.freeFetch).carriers = s.carriers := rfl
@[simp] theorem State.freeFetch_change : (s.freeFetch).change = s.change := rfl
@[simp] theorem State.freeFetch_translation : (s.freeFetch).translation = s.translation := rfl
@[simp] theorem State.freeFetch_processor : (s.freeFetch).processor = s.processor := rfl
@[simp] theorem State.freeFetch_events : (s.freeFetch).events = s.events := rfl
@[simp] theorem State.freeFetch_monitor : (s.freeFetch).monitor = s.monitor := rfl
@[simp] theorem State.freeFetch_mQueue : (s.freeFetch).mQueue = s.mQueue := rfl
@[simp] theorem State.freeFetch_channel : (s.freeFetch).channel = s.channel := rfl
@[simp] theorem State.freeFetch_outputs : (s.freeFetch).outputs = s.outputs := rfl
@[simp] theorem State.freeFetch_draws : (s.freeFetch).draws = s.draws := rfl
@[simp] theorem State.freeFetch_pending : (s.freeFetch).pending = s.pending := rfl
@[simp] theorem State.freeFetch_trib (x : TribId) : (s.freeFetch).trib x = s.trib x := rfl
@[simp] theorem State.freeFetch_carrier (x : CarrierId) : (s.freeFetch).carrier x = s.carrier x := rfl
@[simp] theorem State.freeFetch_parent (x : Fin 32) : (s.freeFetch).parent x = s.parent x := rfl
@[simp] theorem State.freeFetch_sub (x : Fin 64) : (s.freeFetch).sub x = s.sub x := rfl
@[simp] theorem State.freeFetch_sourceList (x : Source) : (s.freeFetch).sourceList x = s.sourceList x := rfl
@[simp] theorem State.freeFetch_counter (x : Fin 8) : (s.freeFetch).counter x = s.counter x := rfl

/-! ### beginCommand -/

@[simp] theorem State.beginCommand_tributaries (r : Record) : (s.beginCommand r).tributaries = s.tributaries := rfl
@[simp] theorem State.beginCommand_carriers (r : Record) : (s.beginCommand r).carriers = s.carriers := rfl
@[simp] theorem State.beginCommand_change (r : Record) : (s.beginCommand r).change = s.change := rfl
@[simp] theorem State.beginCommand_translation (r : Record) : (s.beginCommand r).translation = s.translation := rfl
@[simp] theorem State.beginCommand_events (r : Record) : (s.beginCommand r).events = s.events := rfl
@[simp] theorem State.beginCommand_monitor (r : Record) : (s.beginCommand r).monitor = s.monitor := rfl
@[simp] theorem State.beginCommand_mQueue (r : Record) : (s.beginCommand r).mQueue = s.mQueue := rfl
@[simp] theorem State.beginCommand_channel (r : Record) : (s.beginCommand r).channel = s.channel := rfl
@[simp] theorem State.beginCommand_outputs (r : Record) : (s.beginCommand r).outputs = s.outputs := rfl
@[simp] theorem State.beginCommand_draws (r : Record) : (s.beginCommand r).draws = s.draws := rfl
@[simp] theorem State.beginCommand_pending (r : Record) : (s.beginCommand r).pending = s.pending := rfl
@[simp] theorem State.beginCommand_trib (r : Record) (x : TribId) : (s.beginCommand r).trib x = s.trib x := rfl
@[simp] theorem State.beginCommand_carrier (r : Record) (x : CarrierId) : (s.beginCommand r).carrier x = s.carrier x := rfl
@[simp] theorem State.beginCommand_parent (r : Record) (x : Fin 32) : (s.beginCommand r).parent x = s.parent x := rfl
@[simp] theorem State.beginCommand_sub (r : Record) (x : Fin 64) : (s.beginCommand r).sub x = s.sub x := rfl
@[simp] theorem State.beginCommand_sourceList (r : Record) (x : Source) : (s.beginCommand r).sourceList x = s.sourceList x := rfl
@[simp] theorem State.beginCommand_counter (r : Record) (x : Fin 8) : (s.beginCommand r).counter x = s.counter x := rfl

/-! ### issueFetch -/

@[simp] theorem State.issueFetch_tributaries : (s.issueFetch).tributaries = s.tributaries := rfl
@[simp] theorem State.issueFetch_carriers : (s.issueFetch).carriers = s.carriers := rfl
@[simp] theorem State.issueFetch_change : (s.issueFetch).change = s.change := rfl
@[simp] theorem State.issueFetch_translation : (s.issueFetch).translation = s.translation := rfl
@[simp] theorem State.issueFetch_events : (s.issueFetch).events = s.events := rfl
@[simp] theorem State.issueFetch_monitor : (s.issueFetch).monitor = s.monitor := rfl
@[simp] theorem State.issueFetch_channel : (s.issueFetch).channel = s.channel := rfl
@[simp] theorem State.issueFetch_outputs : (s.issueFetch).outputs = s.outputs := rfl
@[simp] theorem State.issueFetch_draws : (s.issueFetch).draws = s.draws := rfl
@[simp] theorem State.issueFetch_pending : (s.issueFetch).pending = s.pending := rfl
@[simp] theorem State.issueFetch_trib (x : TribId) : (s.issueFetch).trib x = s.trib x := rfl
@[simp] theorem State.issueFetch_carrier (x : CarrierId) : (s.issueFetch).carrier x = s.carrier x := rfl
@[simp] theorem State.issueFetch_parent (x : Fin 32) : (s.issueFetch).parent x = s.parent x := rfl
@[simp] theorem State.issueFetch_sub (x : Fin 64) : (s.issueFetch).sub x = s.sub x := rfl
@[simp] theorem State.issueFetch_sourceList (x : Source) : (s.issueFetch).sourceList x = s.sourceList x := rfl
@[simp] theorem State.issueFetch_counter (x : Fin 8) : (s.issueFetch).counter x = s.counter x := rfl

/-! ### admitChange -/

@[simp] theorem State.admitChange_tributaries (kind : ChangeKind) (t : TribId) (c : CarrierId) (ps : List Position) : (s.admitChange kind t c ps).tributaries = s.tributaries := rfl
@[simp] theorem State.admitChange_carriers (kind : ChangeKind) (t : TribId) (c : CarrierId) (ps : List Position) : (s.admitChange kind t c ps).carriers = s.carriers.set c { s.carrier c with pendingFlag := true } := rfl
@[simp] theorem State.admitChange_translation (kind : ChangeKind) (t : TribId) (c : CarrierId) (ps : List Position) : (s.admitChange kind t c ps).translation = s.translation := rfl
@[simp] theorem State.admitChange_response (kind : ChangeKind) (t : TribId) (c : CarrierId) (ps : List Position) : (s.admitChange kind t c ps).response = s.response := rfl
@[simp] theorem State.admitChange_events (kind : ChangeKind) (t : TribId) (c : CarrierId) (ps : List Position) : (s.admitChange kind t c ps).events = s.events := rfl
@[simp] theorem State.admitChange_monitor (kind : ChangeKind) (t : TribId) (c : CarrierId) (ps : List Position) : (s.admitChange kind t c ps).monitor = s.monitor := rfl
@[simp] theorem State.admitChange_mQueue (kind : ChangeKind) (t : TribId) (c : CarrierId) (ps : List Position) : (s.admitChange kind t c ps).mQueue = s.mQueue := rfl
@[simp] theorem State.admitChange_channel (kind : ChangeKind) (t : TribId) (c : CarrierId) (ps : List Position) : (s.admitChange kind t c ps).channel = s.channel := rfl
@[simp] theorem State.admitChange_outputs (kind : ChangeKind) (t : TribId) (c : CarrierId) (ps : List Position) : (s.admitChange kind t c ps).outputs = s.outputs := rfl
@[simp] theorem State.admitChange_draws (kind : ChangeKind) (t : TribId) (c : CarrierId) (ps : List Position) : (s.admitChange kind t c ps).draws = s.draws := rfl
@[simp] theorem State.admitChange_pending (kind : ChangeKind) (t : TribId) (c : CarrierId) (ps : List Position) : (s.admitChange kind t c ps).pending = s.pending := rfl
@[simp] theorem State.admitChange_trib (kind : ChangeKind) (t : TribId) (c : CarrierId) (ps : List Position) (x : TribId) : (s.admitChange kind t c ps).trib x = s.trib x := rfl
@[simp] theorem State.admitChange_parent (kind : ChangeKind) (t : TribId) (c : CarrierId) (ps : List Position) (x : Fin 32) : (s.admitChange kind t c ps).parent x = s.parent x := rfl
@[simp] theorem State.admitChange_sub (kind : ChangeKind) (t : TribId) (c : CarrierId) (ps : List Position) (x : Fin 64) : (s.admitChange kind t c ps).sub x = s.sub x := rfl
@[simp] theorem State.admitChange_sourceList (kind : ChangeKind) (t : TribId) (c : CarrierId) (ps : List Position) (x : Source) : (s.admitChange kind t c ps).sourceList x = s.sourceList x := rfl
@[simp] theorem State.admitChange_counter (kind : ChangeKind) (t : TribId) (c : CarrierId) (ps : List Position) (x : Fin 8) : (s.admitChange kind t c ps).counter x = s.counter x := rfl

/-! ### rewriteMap -/

@[simp] theorem State.rewriteMap_tributaries (ch : PendingChange) (a : ApplyAt) : (s.rewriteMap ch a).tributaries = s.tributaries.set ch.trib ((s.trib ch.trib).applied ch.kind ch.carrier a) := rfl
@[simp] theorem State.rewriteMap_change (ch : PendingChange) (a : ApplyAt) : (s.rewriteMap ch a).change = none := rfl
@[simp] theorem State.rewriteMap_translation (ch : PendingChange) (a : ApplyAt) : (s.rewriteMap ch a).translation = s.translation := rfl
@[simp] theorem State.rewriteMap_response (ch : PendingChange) (a : ApplyAt) : (s.rewriteMap ch a).response = s.response := rfl
@[simp] theorem State.rewriteMap_processor (ch : PendingChange) (a : ApplyAt) : (s.rewriteMap ch a).processor = s.processor := rfl
@[simp] theorem State.rewriteMap_events (ch : PendingChange) (a : ApplyAt) : (s.rewriteMap ch a).events = s.events := rfl
@[simp] theorem State.rewriteMap_monitor (ch : PendingChange) (a : ApplyAt) : (s.rewriteMap ch a).monitor = s.monitor := rfl
@[simp] theorem State.rewriteMap_mQueue (ch : PendingChange) (a : ApplyAt) : (s.rewriteMap ch a).mQueue = s.mQueue := rfl
@[simp] theorem State.rewriteMap_channel (ch : PendingChange) (a : ApplyAt) : (s.rewriteMap ch a).channel = s.channel := rfl
@[simp] theorem State.rewriteMap_outputs (ch : PendingChange) (a : ApplyAt) : (s.rewriteMap ch a).outputs = s.outputs := rfl
@[simp] theorem State.rewriteMap_draws (ch : PendingChange) (a : ApplyAt) : (s.rewriteMap ch a).draws = s.draws := rfl
@[simp] theorem State.rewriteMap_pending (ch : PendingChange) (a : ApplyAt) : (s.rewriteMap ch a).pending = s.pending := rfl
@[simp] theorem State.rewriteMap_parent (ch : PendingChange) (a : ApplyAt) (x : Fin 32) : (s.rewriteMap ch a).parent x = s.parent x := rfl
@[simp] theorem State.rewriteMap_sub (ch : PendingChange) (a : ApplyAt) (x : Fin 64) : (s.rewriteMap ch a).sub x = s.sub x := rfl
@[simp] theorem State.rewriteMap_sourceList (ch : PendingChange) (a : ApplyAt) (x : Source) : (s.rewriteMap ch a).sourceList x = s.sourceList x := rfl
@[simp] theorem State.rewriteMap_counter (ch : PendingChange) (a : ApplyAt) (x : Fin 8) : (s.rewriteMap ch a).counter x = s.counter x := rfl

/-! ### alarmEverywhere -/

@[simp] theorem State.alarmEverywhere_tributaries (t : TribId) : (s.alarmEverywhere t).tributaries = s.tributaries := rfl
@[simp] theorem State.alarmEverywhere_carriers (t : TribId) : (s.alarmEverywhere t).carriers = mapTable (alarmPositions t) s.carriers := rfl
@[simp] theorem State.alarmEverywhere_change (t : TribId) : (s.alarmEverywhere t).change = s.change := rfl
@[simp] theorem State.alarmEverywhere_translation (t : TribId) : (s.alarmEverywhere t).translation = s.translation := rfl
@[simp] theorem State.alarmEverywhere_response (t : TribId) : (s.alarmEverywhere t).response = s.response := rfl
@[simp] theorem State.alarmEverywhere_processor (t : TribId) : (s.alarmEverywhere t).processor = s.processor := rfl
@[simp] theorem State.alarmEverywhere_events (t : TribId) : (s.alarmEverywhere t).events = s.events := rfl
@[simp] theorem State.alarmEverywhere_monitor (t : TribId) : (s.alarmEverywhere t).monitor = s.monitor := rfl
@[simp] theorem State.alarmEverywhere_mQueue (t : TribId) : (s.alarmEverywhere t).mQueue = s.mQueue := rfl
@[simp] theorem State.alarmEverywhere_channel (t : TribId) : (s.alarmEverywhere t).channel = s.channel := rfl
@[simp] theorem State.alarmEverywhere_outputs (t : TribId) : (s.alarmEverywhere t).outputs = s.outputs := rfl
@[simp] theorem State.alarmEverywhere_draws (t : TribId) : (s.alarmEverywhere t).draws = s.draws := rfl
@[simp] theorem State.alarmEverywhere_pending (t : TribId) : (s.alarmEverywhere t).pending = s.pending := rfl
@[simp] theorem State.alarmEverywhere_trib (t : TribId) (x : TribId) : (s.alarmEverywhere t).trib x = s.trib x := rfl
@[simp] theorem State.alarmEverywhere_parent (t : TribId) (x : Fin 32) : (s.alarmEverywhere t).parent x = s.parent x := rfl
@[simp] theorem State.alarmEverywhere_sub (t : TribId) (x : Fin 64) : (s.alarmEverywhere t).sub x = s.sub x := rfl
@[simp] theorem State.alarmEverywhere_sourceList (t : TribId) (x : Source) : (s.alarmEverywhere t).sourceList x = s.sourceList x := rfl
@[simp] theorem State.alarmEverywhere_counter (t : TribId) (x : Fin 8) : (s.alarmEverywhere t).counter x = s.counter x := rfl

/-! ### emptyTables -/

@[simp] theorem State.emptyTables_tributaries : (s.emptyTables).tributaries = mapTable Tributary.emptied s.tributaries := rfl
@[simp] theorem State.emptyTables_carriers : (s.emptyTables).carriers = mapTable Carrier.emptied s.carriers := rfl
@[simp] theorem State.emptyTables_change : (s.emptyTables).change = s.change := rfl
@[simp] theorem State.emptyTables_translation : (s.emptyTables).translation = s.translation := rfl
@[simp] theorem State.emptyTables_response : (s.emptyTables).response = s.response := rfl
@[simp] theorem State.emptyTables_processor : (s.emptyTables).processor = s.processor := rfl
@[simp] theorem State.emptyTables_events : (s.emptyTables).events = s.events := rfl
@[simp] theorem State.emptyTables_monitor : (s.emptyTables).monitor = s.monitor := rfl
@[simp] theorem State.emptyTables_mQueue : (s.emptyTables).mQueue = s.mQueue := rfl
@[simp] theorem State.emptyTables_channel : (s.emptyTables).channel = s.channel := rfl
@[simp] theorem State.emptyTables_outputs : (s.emptyTables).outputs = s.outputs := rfl
@[simp] theorem State.emptyTables_draws : (s.emptyTables).draws = s.draws := rfl
@[simp] theorem State.emptyTables_pending : (s.emptyTables).pending = s.pending := rfl
@[simp] theorem State.emptyTables_parent (x : Fin 32) : (s.emptyTables).parent x = s.parent x := rfl
@[simp] theorem State.emptyTables_sub (x : Fin 64) : (s.emptyTables).sub x = s.sub x := rfl
@[simp] theorem State.emptyTables_sourceList (x : Source) : (s.emptyTables).sourceList x = s.sourceList x := rfl
@[simp] theorem State.emptyTables_counter (x : Fin 8) : (s.emptyTables).counter x = s.counter x := rfl

/-! ### advanceCount -/

@[simp] theorem State.advanceCount_tributaries : (s.advanceCount).tributaries = s.tributaries := rfl
@[simp] theorem State.advanceCount_carriers : (s.advanceCount).carriers = s.carriers := rfl
@[simp] theorem State.advanceCount_change : (s.advanceCount).change = s.change := rfl
@[simp] theorem State.advanceCount_translation : (s.advanceCount).translation = s.translation := rfl
@[simp] theorem State.advanceCount_processor : (s.advanceCount).processor = s.processor := rfl
@[simp] theorem State.advanceCount_events : (s.advanceCount).events = s.events := rfl
@[simp] theorem State.advanceCount_monitor : (s.advanceCount).monitor = s.monitor := rfl
@[simp] theorem State.advanceCount_mQueue : (s.advanceCount).mQueue = s.mQueue := rfl
@[simp] theorem State.advanceCount_channel : (s.advanceCount).channel = s.channel := rfl
@[simp] theorem State.advanceCount_outputs : (s.advanceCount).outputs = s.outputs := rfl
@[simp] theorem State.advanceCount_draws : (s.advanceCount).draws = s.draws := rfl
@[simp] theorem State.advanceCount_pending : (s.advanceCount).pending = s.pending := rfl
@[simp] theorem State.advanceCount_trib (x : TribId) : (s.advanceCount).trib x = s.trib x := rfl
@[simp] theorem State.advanceCount_carrier (x : CarrierId) : (s.advanceCount).carrier x = s.carrier x := rfl
@[simp] theorem State.advanceCount_parent (x : Fin 32) : (s.advanceCount).parent x = s.parent x := rfl
@[simp] theorem State.advanceCount_sub (x : Fin 64) : (s.advanceCount).sub x = s.sub x := rfl
@[simp] theorem State.advanceCount_sourceList (x : Source) : (s.advanceCount).sourceList x = s.sourceList x := rfl
@[simp] theorem State.advanceCount_counter (x : Fin 8) : (s.advanceCount).counter x = s.counter x := rfl

/-! ### Parts of the translation unit, the response unit and the processor -/

@[simp] theorem State.setParent_parents (i : Fin 32) (r : Parent) :
    (s.setParent i r).translation.parents = s.translation.parents.set i r := rfl
@[simp] theorem State.setParent_subReads (i : Fin 32) (r : Parent) :
    (s.setParent i r).translation.subReads = s.translation.subReads := rfl
@[simp] theorem State.setParent_lists (i : Fin 32) (r : Parent) :
    (s.setParent i r).translation.lists = s.translation.lists := rfl
@[simp] theorem State.setParent_ready (i : Fin 32) (r : Parent) :
    (s.setParent i r).translation.ready = s.translation.ready := rfl
@[simp] theorem State.setSub_parents (i : Fin 64) (r : SubRead) :
    (s.setSub i r).translation.parents = s.translation.parents := rfl
@[simp] theorem State.setSub_subReads (i : Fin 64) (r : SubRead) :
    (s.setSub i r).translation.subReads = s.translation.subReads.set i r := rfl
@[simp] theorem State.setSub_lists (i : Fin 64) (r : SubRead) :
    (s.setSub i r).translation.lists = s.translation.lists := rfl
@[simp] theorem State.setSub_ready (i : Fin 64) (r : SubRead) :
    (s.setSub i r).translation.ready = s.translation.ready := rfl
@[simp] theorem State.setSourceList_parents (src : Source) (l : List (Fin 32)) :
    (s.setSourceList src l).translation.parents = s.translation.parents := rfl
@[simp] theorem State.setSourceList_subReads (src : Source) (l : List (Fin 32)) :
    (s.setSourceList src l).translation.subReads = s.translation.subReads := rfl
@[simp] theorem State.setSourceList_lists (src : Source) (l : List (Fin 32)) :
    (s.setSourceList src l).translation.lists = s.translation.lists.set src l := rfl
@[simp] theorem State.setSourceList_ready (src : Source) (l : List (Fin 32)) :
    (s.setSourceList src l).translation.ready = s.translation.ready := rfl
@[simp] theorem State.refreshReady_parents : s.refreshReady.translation.parents = s.translation.parents := rfl
@[simp] theorem State.refreshReady_subReads : s.refreshReady.translation.subReads = s.translation.subReads := rfl
@[simp] theorem State.refreshReady_lists : s.refreshReady.translation.lists = s.translation.lists := rfl
@[simp] theorem State.freeFetch_microseconds : s.freeFetch.response.microseconds = s.response.microseconds := rfl
@[simp] theorem State.freeFetch_epoch : s.freeFetch.response.epoch = s.response.epoch := rfl
@[simp] theorem State.freeFetch_fetch :
    s.freeFetch.response.fetch = { s.response.fetch with issued := false } := rfl
@[simp] theorem State.beginCommand_microseconds (r : Record) :
    (s.beginCommand r).response.microseconds = s.response.microseconds := rfl
@[simp] theorem State.beginCommand_epoch (r : Record) : (s.beginCommand r).response.epoch = s.response.epoch := rfl
@[simp] theorem State.beginCommand_fetch (r : Record) :
    (s.beginCommand r).response.fetch = { s.response.fetch with issued := false } := rfl
@[simp] theorem State.beginCommand_post (r : Record) : (s.beginCommand r).processor.post = s.processor.post := rfl
@[simp] theorem State.beginCommand_done (r : Record) : (s.beginCommand r).processor.done = s.processor.done := rfl
@[simp] theorem State.beginCommand_limits (r : Record) : (s.beginCommand r).processor.limits = s.processor.limits := rfl
@[simp] theorem State.beginCommand_command (r : Record) : (s.beginCommand r).processor.command = some r := rfl
@[simp] theorem State.issueFetch_microseconds : s.issueFetch.response.microseconds = s.response.microseconds := rfl
@[simp] theorem State.issueFetch_epoch : s.issueFetch.response.epoch = s.response.epoch := rfl
@[simp] theorem State.issueFetch_post : s.issueFetch.processor.post = s.processor.post := rfl
@[simp] theorem State.issueFetch_done : s.issueFetch.processor.done = s.processor.done := rfl
@[simp] theorem State.issueFetch_limits : s.issueFetch.processor.limits = s.processor.limits := rfl
@[simp] theorem State.issueFetch_command : s.issueFetch.processor.command = s.processor.command := rfl
@[simp] theorem State.issueFetch_phase : s.issueFetch.processor.phase = .fetching := rfl
@[simp] theorem State.issueFetch_issued : s.issueFetch.response.fetch.issued = true := rfl
@[simp] theorem State.loseEvent_written : s.loseEvent.events.written = s.events.written := rfl
@[simp] theorem State.loseEvent_taken : s.loseEvent.events.taken = s.events.taken := rfl
@[simp] theorem State.loseEvent_shadow : s.loseEvent.events.shadow = s.events.shadow := rfl
@[simp] theorem State.loseEvent_kinds : s.loseEvent.events.kinds = s.events.kinds := rfl
@[simp] theorem State.loseEvent_threshold : s.loseEvent.events.threshold = s.events.threshold := rfl
@[simp] theorem State.loseEvent_notice : s.loseEvent.events.notice = s.events.notice := rfl
@[simp] theorem State.writeEvent_written (e : Event) : (s.writeEvent e).events.written = s.events.written + 1 := rfl
@[simp] theorem State.writeEvent_taken (e : Event) : (s.writeEvent e).events.taken = s.events.taken := rfl
@[simp] theorem State.writeEvent_lost (e : Event) : (s.writeEvent e).events.lost = 0 := rfl
@[simp] theorem State.writeEvent_kinds (e : Event) : (s.writeEvent e).events.kinds = s.events.kinds := rfl
@[simp] theorem State.writeEvent_threshold (e : Event) : (s.writeEvent e).events.threshold = s.events.threshold := rfl
@[simp] theorem State.writeEvent_shadow (e : Event) :
    (s.writeEvent e).events.shadow = s.events.shadow ++ [(s.events.setting e.kind).priority] := rfl

/-! ### Table entries through an update -/

@[simp] theorem State.trib_setTrib_self (t : TribId) (r : Tributary) : (s.setTrib t r).trib t = r := by
  simp [State.trib]
theorem State.trib_setTrib_ne (t u : TribId) (r : Tributary) (h : u ≠ t) : (s.setTrib t r).trib u = s.trib u := by
  have : t.val ≠ u.val := fun h' => h (Fin.ext h'.symm)
  simp [State.trib, this]
@[simp] theorem State.carrier_setCarrier_self (c : CarrierId) (r : Carrier) : (s.setCarrier c r).carrier c = r := by
  simp [State.carrier]
theorem State.carrier_setCarrier_ne (c d : CarrierId) (r : Carrier) (h : d ≠ c) :
    (s.setCarrier c r).carrier d = s.carrier d := by
  have : c.val ≠ d.val := fun h' => h (Fin.ext h'.symm)
  simp [State.carrier, this]
@[simp] theorem State.parent_setParent_self (i : Fin 32) (r : Parent) : (s.setParent i r).parent i = r := by
  simp [State.parent]
theorem State.parent_setParent_ne (i j : Fin 32) (r : Parent) (h : j ≠ i) : (s.setParent i r).parent j = s.parent j := by
  have : i.val ≠ j.val := fun h' => h (Fin.ext h'.symm)
  simp [State.parent, this]
@[simp] theorem State.sub_setSub_self (k : Fin 64) (r : SubRead) : (s.setSub k r).sub k = r := by
  simp [State.sub]
theorem State.sub_setSub_ne (k l : Fin 64) (r : SubRead) (h : l ≠ k) : (s.setSub k r).sub l = s.sub l := by
  have : k.val ≠ l.val := fun h' => h (Fin.ext h'.symm)
  simp [State.sub, this]
@[simp] theorem State.counter_setCounter_self (k : Fin 8) (r : Counter) : (s.setCounter k r).counter k = r := by
  simp [State.counter]
theorem State.counter_setCounter_ne (k l : Fin 8) (r : Counter) (h : l ≠ k) :
    (s.setCounter k r).counter l = s.counter l := by
  have : k.val ≠ l.val := fun h' => h (Fin.ext h'.symm)
  simp [State.counter, this]
@[simp] theorem State.sourceList_setSourceList_self (src : Source) (l : List (Fin 32)) :
    (s.setSourceList src l).sourceList src = l := by
  simp [State.sourceList]
theorem State.sourceList_setSourceList_ne (src other : Source) (l : List (Fin 32)) (h : other ≠ src) :
    (s.setSourceList src l).sourceList other = s.sourceList other := by
  have : src.val ≠ other.val := fun h' => h (Fin.ext h'.symm)
  simp [State.sourceList, this]
@[simp] theorem State.emptyTables_trib (t : TribId) : s.emptyTables.trib t = (s.trib t).emptied := by
  simp only [State.trib, State.emptyTables_tributaries, Fin.getElem_fin, mapTable_getElem]
@[simp] theorem State.emptyTables_carrier (c : CarrierId) : s.emptyTables.carrier c = (s.carrier c).emptied := by
  simp only [State.carrier, State.emptyTables_carriers, Fin.getElem_fin, mapTable_getElem]
@[simp] theorem State.alarmEverywhere_carrier (t : TribId) (c : CarrierId) :
    (s.alarmEverywhere t).carrier c = alarmPositions t (s.carrier c) := by
  simp only [State.carrier, State.alarmEverywhere_carriers, Fin.getElem_fin, mapTable_getElem]
@[simp] theorem State.countOccurrence_counter (o : Occurrence) (k : Fin 8) :
    (s.countOccurrence o).counter k = (s.counter k).after o := by
  simp only [State.counter, State.countOccurrence_monitor, Fin.getElem_fin, mapTable_getElem]

end Sys2Proof.Machine
end

