-- ==== Sys2Proof/Laws/Completion.lean ====
section
/-! SUPPORT. What the completion of a command can do: words 5 to 7 and the done word join the M-side queue, D rises, the processor goes to IDLE or fetches the next record, and nothing else moves. -/

namespace Sys2Proof.Machine

variable (s : State) (g : Option (List Position)) (code : Completion) (data : List Byte)

@[simp] theorem State.completeWith_tributaries : (s.completeWith g code data).tributaries = s.tributaries := by
  unfold State.completeWith; dsimp only; split <;> rfl
@[simp] theorem State.completeWith_carriers : (s.completeWith g code data).carriers = s.carriers := by
  unfold State.completeWith; dsimp only; split <;> rfl
@[simp] theorem State.completeWith_change : (s.completeWith g code data).change = s.change := by
  unfold State.completeWith; dsimp only; split <;> rfl
@[simp] theorem State.completeWith_translation : (s.completeWith g code data).translation = s.translation := by
  unfold State.completeWith; dsimp only; split <;> rfl
@[simp] theorem State.completeWith_events : (s.completeWith g code data).events = s.events := by
  unfold State.completeWith; dsimp only; split <;> rfl
@[simp] theorem State.completeWith_monitor : (s.completeWith g code data).monitor = s.monitor := by
  unfold State.completeWith; dsimp only; split <;> rfl
@[simp] theorem State.completeWith_draws : (s.completeWith g code data).draws = s.draws := by
  unfold State.completeWith; dsimp only; split <;> rfl
@[simp] theorem State.completeWith_channel : (s.completeWith g code data).channel = s.channel := by
  unfold State.completeWith; dsimp only; split <;> rfl
@[simp] theorem State.completeWith_outputs : (s.completeWith g code data).outputs = s.outputs := by
  unfold State.completeWith; dsimp only; split <;> rfl
@[simp] theorem State.completeWith_pending : (s.completeWith g code data).pending = s.pending := by
  unfold State.completeWith; dsimp only; split <;> rfl
@[simp] theorem State.completeWith_microseconds :
    (s.completeWith g code data).response.microseconds = s.response.microseconds := by
  unfold State.completeWith; dsimp only; split <;> rfl
@[simp] theorem State.completeWith_epoch : (s.completeWith g code data).response.epoch = s.response.epoch := by
  unfold State.completeWith; dsimp only; split <;> rfl
@[simp] theorem State.completeWith_limits : (s.completeWith g code data).processor.limits = s.processor.limits := by
  unfold State.completeWith; dsimp only; split <;> rfl
@[simp] theorem State.completeWith_post : (s.completeWith g code data).processor.post = s.processor.post := by
  unfold State.completeWith; dsimp only; split <;> rfl
@[simp] theorem State.completeWith_done : (s.completeWith g code data).processor.done = s.processor.done + 1 := by
  unfold State.completeWith; dsimp only; split <;> rfl
@[simp] theorem State.completeWith_command : (s.completeWith g code data).processor.command = none := by
  unfold State.completeWith; dsimp only; split <;> rfl
@[simp] theorem State.completeWith_trib (t : TribId) : (s.completeWith g code data).trib t = s.trib t := by
  simp [State.trib]
@[simp] theorem State.completeWith_carrier (c : CarrierId) : (s.completeWith g code data).carrier c = s.carrier c := by
  simp [State.carrier]
@[simp] theorem State.completeWith_parent (i : Fin 32) : (s.completeWith g code data).parent i = s.parent i := by
  simp [State.parent]
@[simp] theorem State.completeWith_sub (k : Fin 64) : (s.completeWith g code data).sub k = s.sub k := by
  simp [State.sub]
@[simp] theorem State.completeWith_counter (n : Fin 8) : (s.completeWith g code data).counter n = s.counter n := by
  simp [State.counter]

/-- The M-side queue after a completion: the completion's own writes, then the fetch of the next record when the count
posted is not reached (R143, R151). -/
theorem State.completeWith_mQueue : (s.completeWith g code data).mQueue =
    s.mQueue ++ completionWrites s.processor.done g code data ++
      if s.processor.done + 1 = s.processor.post then []
      else [.read .own (mTag 0 (s.response.fetch.generation + 1) true s.response.epoch)
        (recordAddr (s.processor.done + 1)) 8] := by
  unfold State.completeWith; dsimp only; split <;> simp [State.issueFetch]

/-- All that a completion without a grain list does, once, with the work's state `w` behind it and the state `s` that
the fetch answer found (R151). -/
theorem State.complete_completes (s w : State) (code : Completion) (data : List Byte)
    (hp : w.processor.post = s.processor.post) (hd : w.processor.done = s.processor.done)
    (hf : w.response.fetch = { s.response.fetch with issued := false })
    (hm : w.response.microseconds = s.response.microseconds) (he : w.response.epoch = s.response.epoch) :
    Completes s (w.complete code data) w.mQueue code data := by
  unfold Completes State.complete State.completeWith
  simp only [hd, hp]
  split <;> simp_all [State.issueFetch]

/-- All that a completion does behind a command's work on the tables, the event writer or the monitor (R151). -/
theorem State.complete_completesWork (s w : State) (code : Completion) (data : List Byte)
    (hs : SameSurroundings s w) (hl : SameLimits s w)
    (hp : w.processor.post = s.processor.post) (hd : w.processor.done = s.processor.done)
    (hf : w.response.fetch = { s.response.fetch with issued := false }) :
    CompletesWork s (w.complete code data) w.mQueue code data := by
  obtain ⟨h1, h2, h3, h4, h5, h6⟩ := hs
  refine ⟨⟨?_, ?_, ?_, ?_, ?_, ?_⟩, ?_, State.complete_completes s w code data hp hd hf h2 h3⟩
  all_goals simp_all [State.complete, SameLimits]

/-- A command that is refused, or only answers, changes nothing but its own completion (R150). -/
theorem State.complete_beginCommand_onlyCompletes (s : State) (r : Record) (code : Completion) (data : List Byte) :
    OnlyCompletes s ((s.beginCommand r).complete code data) code data := by
  refine ⟨⟨?_, ?_, ?_⟩, ⟨?_, ?_, ?_⟩, ⟨?_, ?_, ?_, ?_, ?_, ?_⟩, ?_, ?_⟩
  any_goals simp [State.complete, SameLimits]
  exact State.complete_completes s (s.beginCommand r) code data rfl rfl rfl rfl rfl

end Sys2Proof.Machine
end

