-- ==== Sys2Proof/Laws/Reporting.lean ====
section
/-! SUPPORT. What raising an event and reporting an occurrence can do: the event writer, the monitor and the draws change, own writes join the M-side queue, and nothing else moves. -/

namespace Sys2Proof.Machine

/-- Every request of a list is a write of the part's own (R143). -/
def allOwnWrites (ws : List MRequest) : Prop := ∀ r ∈ ws, ∃ a d, r = ownWrite a d

theorem allOwnWrites_nil : allOwnWrites [] := fun _ h => nomatch h

theorem allOwnWrites_append {xs ys : List MRequest} (hx : allOwnWrites xs) (hy : allOwnWrites ys) :
    allOwnWrites (xs ++ ys) := fun r hr => (List.mem_append.1 hr).elim (hx r) (hy r)

/-- An own write forwards no U-side write. -/
theorem countP_forwarded_of_allOwnWrites {ws : List MRequest} (h : allOwnWrites ws) :
    ws.countP MRequest.isForwardedWrite = 0 := by
  rw [List.countP_eq_zero]
  intro r hr
  obtain ⟨a, d, rfl⟩ := h r hr
  simp [ownWrite, MRequest.isForwardedWrite]

/-- What reporting leaves: all but the event writer, the monitor, the draws and own writes at the queue's end. -/
def Reported (s t : State) : Prop :=
  ∃ events monitor draws ws, allOwnWrites ws ∧
    t = { s with events := events, monitor := monitor, draws := draws, mQueue := s.mQueue ++ ws }

theorem Reported.refl (s : State) : Reported s s :=
  ⟨s.events, s.monitor, s.draws, [], allOwnWrites_nil, by simp⟩

theorem Reported.trans {s t u : State} (h : Reported s t) (h' : Reported t u) : Reported s u := by
  obtain ⟨_, _, _, ws, hw, rfl⟩ := h
  obtain ⟨e, m, d, ws', hw', rfl⟩ := h'
  exact ⟨e, m, d, ws ++ ws', allOwnWrites_append hw hw', by simp⟩

theorem writeEvent_reported (s : State) (e : Event) : Reported s (s.writeEvent e) :=
  ⟨(s.writeEvent e).events, s.monitor, s.draws, _, by
    intro r hr
    simp only [List.mem_cons, List.not_mem_nil, or_false] at hr
    rcases hr with rfl | rfl | rfl <;> exact ⟨_, _, rfl⟩, rfl⟩

theorem loseEvent_reported (s : State) : Reported s s.loseEvent :=
  ⟨s.loseEvent.events, s.monitor, s.draws, [], allOwnWrites_nil, by simp [State.loseEvent]⟩

theorem countOccurrence_reported (s : State) (o : Occurrence) : Reported s (s.countOccurrence o) :=
  ⟨s.events, (s.countOccurrence o).monitor, (s.countOccurrence o).draws, [], allOwnWrites_nil, by
    simp [State.countOccurrence]⟩

/-- All that raising a list of events can do. -/
theorem raiseAll_reported (fuel : Nat) (es : List Event) (s : State) : Reported s (raiseAll fuel es s) := by
  induction fuel generalizing es s with
  | zero => exact .refl s
  | succ fuel ih =>
    cases es with
    | nil => exact .refl s
    | cons e es =>
      unfold raiseAll
      split
      · exact ih es s
      · split
        · exact ((loseEvent_reported s).trans (countOccurrence_reported _ _)).trans (ih _ _)
        · exact (writeEvent_reported s e).trans (ih _ _)

/-- All that raising an event can do (R162, R165). -/
theorem raise_reported (s : State) (e : Event) : Reported s (s.raise e) := raiseAll_reported _ _ s

/-- All that reporting an occurrence can do (R174, R177). -/
theorem report_reported (s : State) (o : Occurrence) : Reported s (s.report o) :=
  (countOccurrence_reported s o).trans (raiseAll_reported _ _ _)

/-- All that reporting several occurrences can do. -/
theorem foldl_report_reported (os : List Occurrence) (s : State) : Reported s (os.foldl State.report s) := by
  induction os generalizing s with
  | nil => exact .refl s
  | cons o os ih => exact (report_reported s o).trans (ih _)

theorem Reported.tributaries {s t : State} (h : Reported s t) : t.tributaries = s.tributaries := by obtain ⟨_, _, _, _, _, rfl⟩ := h; rfl
theorem Reported.carriers {s t : State} (h : Reported s t) : t.carriers = s.carriers := by obtain ⟨_, _, _, _, _, rfl⟩ := h; rfl
theorem Reported.change {s t : State} (h : Reported s t) : t.change = s.change := by obtain ⟨_, _, _, _, _, rfl⟩ := h; rfl
theorem Reported.translation {s t : State} (h : Reported s t) : t.translation = s.translation := by obtain ⟨_, _, _, _, _, rfl⟩ := h; rfl
theorem Reported.response {s t : State} (h : Reported s t) : t.response = s.response := by obtain ⟨_, _, _, _, _, rfl⟩ := h; rfl
theorem Reported.processor {s t : State} (h : Reported s t) : t.processor = s.processor := by obtain ⟨_, _, _, _, _, rfl⟩ := h; rfl
theorem Reported.channel {s t : State} (h : Reported s t) : t.channel = s.channel := by obtain ⟨_, _, _, _, _, rfl⟩ := h; rfl
theorem Reported.outputs {s t : State} (h : Reported s t) : t.outputs = s.outputs := by obtain ⟨_, _, _, _, _, rfl⟩ := h; rfl
theorem Reported.pending {s t : State} (h : Reported s t) : t.pending = s.pending := by obtain ⟨_, _, _, _, _, rfl⟩ := h; rfl

theorem Reported.trib {s t : State} (h : Reported s t) (i : TribId) : t.trib i = s.trib i := by
  simp [State.trib, h.tributaries]
theorem Reported.carrier {s t : State} (h : Reported s t) (c : CarrierId) : t.carrier c = s.carrier c := by
  simp [State.carrier, h.carriers]
theorem Reported.parent {s t : State} (h : Reported s t) (i : Fin 32) : t.parent i = s.parent i := by
  simp [State.parent, h.translation]
theorem Reported.sub {s t : State} (h : Reported s t) (k : Fin 64) : t.sub k = s.sub k := by
  simp [State.sub, h.translation]
theorem Reported.mQueue {s t : State} (h : Reported s t) : ∃ ws, allOwnWrites ws ∧ t.mQueue = s.mQueue ++ ws := by
  obtain ⟨_, _, _, ws, hw, rfl⟩ := h
  exact ⟨ws, hw, rfl⟩
theorem Reported.forwardedWrites {s t : State} (h : Reported s t) : t.forwardedWrites = s.forwardedWrites := by
  obtain ⟨ws, hw, hq⟩ := h.mQueue
  simp [State.forwardedWrites, hq, countP_forwarded_of_allOwnWrites hw]

@[simp] theorem State.raise_tributaries (s : State) (e : Event) : (s.raise e).tributaries = s.tributaries := (raise_reported s _).tributaries
@[simp] theorem State.raise_carriers (s : State) (e : Event) : (s.raise e).carriers = s.carriers := (raise_reported s _).carriers
@[simp] theorem State.raise_change (s : State) (e : Event) : (s.raise e).change = s.change := (raise_reported s _).change
@[simp] theorem State.raise_translation (s : State) (e : Event) : (s.raise e).translation = s.translation := (raise_reported s _).translation
@[simp] theorem State.raise_response (s : State) (e : Event) : (s.raise e).response = s.response := (raise_reported s _).response
@[simp] theorem State.raise_processor (s : State) (e : Event) : (s.raise e).processor = s.processor := (raise_reported s _).processor
@[simp] theorem State.raise_channel (s : State) (e : Event) : (s.raise e).channel = s.channel := (raise_reported s _).channel
@[simp] theorem State.raise_outputs (s : State) (e : Event) : (s.raise e).outputs = s.outputs := (raise_reported s _).outputs
@[simp] theorem State.raise_pending (s : State) (e : Event) : (s.raise e).pending = s.pending := (raise_reported s _).pending
@[simp] theorem State.raise_trib (s : State) (e : Event) (t : TribId) : (s.raise e).trib t = s.trib t := (raise_reported s _).trib t
@[simp] theorem State.raise_carrier (s : State) (e : Event) (c : CarrierId) : (s.raise e).carrier c = s.carrier c := (raise_reported s _).carrier c
@[simp] theorem State.raise_parent (s : State) (e : Event) (i : Fin 32) : (s.raise e).parent i = s.parent i := (raise_reported s _).parent i
@[simp] theorem State.raise_sub (s : State) (e : Event) (k : Fin 64) : (s.raise e).sub k = s.sub k := (raise_reported s _).sub k
@[simp] theorem State.raise_forwardedWrites (s : State) (e : Event) : (s.raise e).forwardedWrites = s.forwardedWrites :=
  (raise_reported s _).forwardedWrites

@[simp] theorem State.report_tributaries (s : State) (o : Occurrence) : (s.report o).tributaries = s.tributaries := (report_reported s _).tributaries
@[simp] theorem State.report_carriers (s : State) (o : Occurrence) : (s.report o).carriers = s.carriers := (report_reported s _).carriers
@[simp] theorem State.report_change (s : State) (o : Occurrence) : (s.report o).change = s.change := (report_reported s _).change
@[simp] theorem State.report_translation (s : State) (o : Occurrence) : (s.report o).translation = s.translation := (report_reported s _).translation
@[simp] theorem State.report_response (s : State) (o : Occurrence) : (s.report o).response = s.response := (report_reported s _).response
@[simp] theorem State.report_processor (s : State) (o : Occurrence) : (s.report o).processor = s.processor := (report_reported s _).processor
@[simp] theorem State.report_channel (s : State) (o : Occurrence) : (s.report o).channel = s.channel := (report_reported s _).channel
@[simp] theorem State.report_outputs (s : State) (o : Occurrence) : (s.report o).outputs = s.outputs := (report_reported s _).outputs
@[simp] theorem State.report_pending (s : State) (o : Occurrence) : (s.report o).pending = s.pending := (report_reported s _).pending
@[simp] theorem State.report_trib (s : State) (o : Occurrence) (t : TribId) : (s.report o).trib t = s.trib t := (report_reported s _).trib t
@[simp] theorem State.report_carrier (s : State) (o : Occurrence) (c : CarrierId) : (s.report o).carrier c = s.carrier c := (report_reported s _).carrier c
@[simp] theorem State.report_parent (s : State) (o : Occurrence) (i : Fin 32) : (s.report o).parent i = s.parent i := (report_reported s _).parent i
@[simp] theorem State.report_sub (s : State) (o : Occurrence) (k : Fin 64) : (s.report o).sub k = s.sub k := (report_reported s _).sub k
@[simp] theorem State.report_forwardedWrites (s : State) (o : Occurrence) : (s.report o).forwardedWrites = s.forwardedWrites :=
  (report_reported s _).forwardedWrites

/-- Two states that reporting cannot tell apart. -/
structure SameForReports (s t : State) : Prop where
  events : t.events = s.events
  monitor : t.monitor = s.monitor
  draws : t.draws = s.draws
  mQueue : t.mQueue = s.mQueue
  microseconds : t.response.microseconds = s.response.microseconds

/-- What raising does to the event writer, the monitor, the draws and the queue depends on those and the count alone. -/
theorem raiseAll_congr (fuel : Nat) (es : List Event) {s t : State} (h : SameForReports s t) :
    SameForReports (raiseAll fuel es s) (raiseAll fuel es t) := by
  induction fuel generalizing es s t with
  | zero => exact h
  | succ fuel ih =>
    cases es with
    | nil => exact h
    | cons e es =>
      unfold raiseAll
      rw [h.events]
      split
      · exact ih es h
      · split
        · rw [h.draws, h.monitor]
          refine ih _ ⟨?_, ?_, ?_, ?_, ?_⟩ <;>
            simp [State.loseEvent, State.countOccurrence, h.events, h.monitor, h.draws, h.mQueue, h.microseconds]
        · refine ih _ ⟨?_, ?_, ?_, ?_, ?_⟩ <;>
            simp [State.writeEvent, h.events, h.monitor, h.draws, h.mQueue, h.microseconds]

theorem State.raise_congr (e : Event) {s t : State} (h : SameForReports s t) :
    SameForReports (s.raise e) (t.raise e) := raiseAll_congr _ _ h

theorem State.report_congr (o : Occurrence) {s t : State} (h : SameForReports s t) :
    SameForReports (s.report o) (t.report o) := by
  unfold State.report
  rw [h.draws, h.monitor]
  refine raiseAll_congr _ _ ⟨?_, ?_, ?_, ?_, ?_⟩ <;>
    simp [State.countOccurrence, h.events, h.monitor, h.draws, h.mQueue, h.microseconds]

/-- A state after reports is the state before with its event writer, monitor, draws and queue replaced. -/
theorem Reported.eq {s t : State} (h : Reported s t) :
    t = { s with events := t.events, monitor := t.monitor, draws := t.draws, mQueue := t.mQueue } := by
  obtain ⟨_, _, _, _, _, rfl⟩ := h; rfl

/-- An event of a disabled kind is discarded (R162). -/
theorem State.raise_disabled (s : State) (e : Event) (h : (s.events.setting e.kind).enabled = false) :
    s.raise e = s := by
  simp [State.raise, monitorFuel, raiseAll, h]

/-- An event of an enabled kind is written when the ring is not full (R162). -/
theorem State.raise_written (s : State) (e : Event) (h : (s.events.setting e.kind).enabled = true)
    (hf : s.events.full = false) : s.raise e = s.writeEvent e := by
  simp [State.raise, monitorFuel, raiseAll, h, hf]

/-- An occurrence that no counter counts has no effect (R174). -/
theorem State.report_uncounted (s : State) (o : Occurrence) (h : ∀ k : Fin 8, s.monitor[k].admits o = false) :
    s.report o = s := by
  have hw : wrapEvents s.draws s.monitor o = [] := by
    have hr : (List.finRange 8).filter (fun k => s.monitor[k].reports o) = [] :=
      List.filter_eq_nil_iff.2 fun k _ => by simp only [Counter.reports, h k, Bool.false_and]; exact Bool.false_ne_true
    rw [wrapEvents, hr, orderByKey_nil, List.map_nil]
  have hm : mapTable (·.after o) s.monitor = s.monitor := by
    apply Vector.ext
    intro i hi
    have hk : (s.monitor[i]).admits o = false := h ⟨i, hi⟩
    rw [mapTable_getElem, Counter.after, hk, if_neg Bool.false_ne_true]
  simp [State.report, hw, monitorFuel, raiseAll, State.countOccurrence, hm, drawn]

/-! ## The raisings are enough -/

/-- The first raising of a list: the events it raises in its turn, and the state after it (R162, R165, R177). -/
def State.raiseStep (s : State) (e : Event) : List Event × State :=
  if !(s.events.setting e.kind).enabled then ([], s)
  else if s.events.full then
    (wrapEvents s.draws s.monitor (lostOccurrence e), s.loseEvent.countOccurrence (lostOccurrence e))
  else ([], s.writeEvent e)

theorem raiseAll_cons (fuel : Nat) (e : Event) (es : List Event) (s : State) :
    raiseAll (fuel + 1) (e :: es) s = raiseAll fuel ((s.raiseStep e).1 ++ es) (s.raiseStep e).2 := by
  rw [raiseAll]; unfold State.raiseStep
  split
  · rfl
  · split <;> rfl

theorem raiseAll_nil (fuel : Nat) (s : State) : raiseAll fuel [] s = s := by cases fuel <;> rfl

/-- The raising of the events of a list, each with all that it leads to, ends in t after n raisings. -/
inductive Raises : Nat → List Event → State → State → Prop where
  | nil (s : State) : Raises 0 [] s s
  | cons (n : Nat) (e : Event) (es : List Event) (s t : State) :
      Raises n ((s.raiseStep e).1 ++ es) (s.raiseStep e).2 t → Raises (n + 1) (e :: es) s t

theorem Raises.raiseAll_eq {n : Nat} {es : List Event} {s t : State} (h : Raises n es s t) (fuel : Nat) (hn : n ≤ fuel) :
    raiseAll fuel es s = t := by
  induction h generalizing fuel with
  | nil s => exact raiseAll_nil fuel s
  | cons n e es s t _ ih =>
    obtain ⟨f, rfl⟩ : ∃ f, fuel = f + 1 := ⟨fuel - 1, by omega⟩
    rw [raiseAll_cons]; exact ih f (by omega)

theorem Raises.append {n : Nat} {es bs : List Event} {s t : State} (h : Raises n es s t) :
    ∀ as, es = as ++ bs → ∃ m k u, m + k = n ∧ Raises m as s u ∧ Raises k bs u t := by
  induction h with
  | nil s =>
    intro as h
    obtain ⟨rfl, rfl⟩ := List.append_eq_nil_iff.1 h.symm
    exact ⟨0, 0, s, rfl, .nil s, .nil s⟩
  | cons n e es s t h ih =>
    intro as hs
    cases as with
    | nil => exact ⟨0, n + 1, s, by omega, .nil s, by rw [List.nil_append] at hs; rw [← hs]; exact .cons n e es s t h⟩
    | cons a as =>
      simp only [List.cons_append, List.cons.injEq] at hs
      obtain ⟨rfl, hs⟩ := hs
      obtain ⟨m, k, u, hmk, h1, h2⟩ := ih ((s.raiseStep e).1 ++ as) (by rw [hs, List.append_assoc])
      exact ⟨m + 1, k, u, by omega, .cons m e as s u h1, h2⟩

/-- The counters that so many occurrences of amount 1 can wrap. -/
def hotCounters (monitor : Vector Counter 8) (n : Nat) : Nat :=
  (List.finRange 8).countP fun k => 2 ^ 48 ≤ monitor[k].count.toNat + n

theorem length_wrapEvents (draws : Nat) (monitor : Vector Counter 8) (o : Occurrence) :
    (wrapEvents draws monitor o).length = (List.finRange 8).countP fun k => monitor[k].reports o := by
  rw [wrapEvents, List.length_map, length_orderByKey, List.countP_eq_length_filter]

theorem countP_add_le {α : Type} (p q r : α → Bool) (l : List α) (h1 : ∀ x ∈ l, p x = true → q x = false)
    (h2 : ∀ x ∈ l, p x = true ∨ q x = true → r x = true) : l.countP p + l.countP q ≤ l.countP r := by
  induction l with
  | nil => simp
  | cons a l ih =>
    have := ih (fun x hx => h1 x (.tail a hx)) (fun x hx => h2 x (.tail a hx))
    have a1 := h1 a (.head l)
    have a2 := h2 a (.head l)
    simp only [List.countP_cons]
    cases hp : p a <;> cases hq : q a <;> simp_all <;> omega

/-- An occurrence's wraps and the counters that may wrap after it are counters that might wrap before it. -/
theorem wraps_add_hot (draws : Nat) (monitor : Vector Counter 8) (o : Occurrence) (n : Nat) (ha : o.amount ≤ 8) (hn : n ≤ 9) :
    (wrapEvents draws monitor o).length + hotCounters (mapTable (·.after o) monitor) n ≤
      hotCounters monitor (n + o.amount) := by
  rw [length_wrapEvents]
  refine countP_add_le _ _ _ _ ?_ ?_
  · intro k _ h
    simp only [Counter.reports, Bool.and_eq_true, decide_eq_true_eq] at h
    simp only [mapTable_get, Counter.after, h.1.1, if_true, decide_eq_false_iff_not, Nat.not_le]
    have := monitor[k].count.isLt
    simp only [BitVec.toNat_add, BitVec.toNat_ofNat]; omega
  · intro k _ h
    simp only [Counter.reports, Bool.and_eq_true, decide_eq_true_eq, mapTable_get, Counter.after] at h ⊢
    rcases h with h | h
    · omega
    · split at h
      · simp only [BitVec.toNat_add, BitVec.toNat_ofNat] at h; omega
      · omega

theorem hotCounters_le (monitor : Vector Counter 8) (n : Nat) : hotCounters monitor n ≤ 8 := by
  unfold hotCounters
  exact le_trans List.countP_le_length (by simp)

/-- Raisings end when the events and the counters that may wrap are no more than the raisings allowed. -/
theorem exists_raises (n : Nat) (hn : n ≤ 9) (es : List Event) (s : State)
    (h : es.length + hotCounters s.monitor n ≤ n) : ∃ m t, m ≤ n ∧ Raises m es s t := by
  induction n generalizing es s with
  | zero =>
    have : es = [] := List.eq_nil_of_length_eq_zero (by omega)
    subst this; exact ⟨0, s, le_refl 0, .nil s⟩
  | succ n ih =>
    cases es with
    | nil => exact ⟨0, s, by omega, .nil s⟩
    | cons e es =>
      simp only [List.length_cons] at h
      have hot : hotCounters s.monitor n ≤ hotCounters s.monitor (n + 1) := by
        unfold hotCounters
        refine List.countP_mono_left fun k _ hk => ?_
        simp only [decide_eq_true_eq] at hk ⊢; omega
      have key : ((s.raiseStep e).1 ++ es).length + hotCounters (s.raiseStep e).2.monitor n ≤ n := by
        unfold State.raiseStep
        rw [List.length_append]
        split
        · simp only [List.length_nil]; omega
        · split
          · have := wraps_add_hot s.draws s.monitor (lostOccurrence e) n (show 1 ≤ 8 by omega) (by omega)
            change _ ≤ hotCounters s.monitor (n + 1) at this
            change _ + hotCounters (mapTable (·.after (lostOccurrence e)) s.monitor) n ≤ n
            dsimp only at this ⊢; omega
          · change _ + hotCounters s.monitor n ≤ n
            simp only [List.length_nil]; omega
      obtain ⟨m, t, hm, hr⟩ := ih (by omega) _ _ key
      exact ⟨m + 1, t, by omega, .cons m e es s t hr⟩

/-- The events that an occurrence raises are raised one after another, each with all that it leads to (R177). -/
theorem State.report_eq_foldl (s : State) (o : Occurrence) (ha : o.amount ≤ 8) :
    s.report o = (wrapEvents s.draws s.monitor o).foldl State.raise (s.countOccurrence o) := by
  have hb := wraps_add_hot s.draws s.monitor o 8 ha (by omega)
  have hl := hotCounters_le s.monitor (8 + o.amount)
  obtain ⟨m, t, hm, hr⟩ := exists_raises 8 (by omega) (wrapEvents s.draws s.monitor o) (s.countOccurrence o)
    (by change _ + hotCounters (mapTable (·.after o) s.monitor) 8 ≤ 8; omega)
  have fold : ∀ (es : List Event) (m : Nat) (s t : State), m ≤ 9 → Raises m es s t → t = es.foldl State.raise s := by
    intro es
    induction es with
    | nil => intro m s t _ h; cases h; rfl
    | cons e es ih =>
      intro m s t hm h
      obtain ⟨a, b, u, hab, h1, h2⟩ := h.append [e] rfl
      have : s.raise e = u := h1.raiseAll_eq 9 (by omega)
      rw [List.foldl_cons, this]
      exact ih b u t (by omega) h2
  rw [← fold _ m _ t (by omega) hr]
  exact hr.raiseAll_eq 9 (by omega)

/-- With the ring full an enabled event is lost, and its EVENTS-LOST occurrence reported (R165). -/
theorem State.raise_lost (s : State) (e : Event) (h : (s.events.setting e.kind).enabled = true)
    (hf : s.events.full = true) : s.raise e = s.loseEvent.report (lostOccurrence e) := by
  have hb := wraps_add_hot s.draws s.monitor (lostOccurrence e) 8 (show 1 ≤ 8 by omega) (by omega)
  have hl := hotCounters_le s.monitor (8 + (lostOccurrence e).amount)
  obtain ⟨m, t, hm, hr⟩ := exists_raises 8 (by omega) (wrapEvents s.draws s.monitor (lostOccurrence e))
    (s.loseEvent.countOccurrence (lostOccurrence e))
    (by change _ + hotCounters (mapTable (·.after (lostOccurrence e)) s.monitor) 8 ≤ 8; omega)
  have hs : s.raiseStep e = (wrapEvents s.draws s.monitor (lostOccurrence e), s.loseEvent.countOccurrence (lostOccurrence e)) := by
    unfold State.raiseStep; rw [if_neg (by simp [h]), if_pos hf]
  rw [State.raise, monitorFuel, raiseAll_cons, hs, List.append_nil, hr.raiseAll_eq 8 hm]
  exact (hr.raiseAll_eq 9 (by omega)).symm

end Sys2Proof.Machine
end

