-- ==== Sys2Proof/Laws/Channel.lean ====
section
/-! SUPPORT. Independence of the upstream channel: what the blocks do to a request neither looks at the channel nor moves it. -/

namespace Sys2Proof.Machine

/-- The state with another upstream channel. -/
def State.withChannel (s : State) (c : Channel) : State := { s with channel := c }

variable (s : State) (c : Channel)

@[simp] theorem State.withChannel_channel : (s.withChannel c).channel = c := rfl
@[simp] theorem State.withChannel_withChannel (d : Channel) : (s.withChannel c).withChannel d = s.withChannel d := rfl
@[simp] theorem State.withChannel_tributaries : (s.withChannel c).tributaries = s.tributaries := rfl
@[simp] theorem State.withChannel_carriers : (s.withChannel c).carriers = s.carriers := rfl
@[simp] theorem State.withChannel_change : (s.withChannel c).change = s.change := rfl
@[simp] theorem State.withChannel_translation : (s.withChannel c).translation = s.translation := rfl
@[simp] theorem State.withChannel_response : (s.withChannel c).response = s.response := rfl
@[simp] theorem State.withChannel_processor : (s.withChannel c).processor = s.processor := rfl
@[simp] theorem State.withChannel_events : (s.withChannel c).events = s.events := rfl
@[simp] theorem State.withChannel_monitor : (s.withChannel c).monitor = s.monitor := rfl
@[simp] theorem State.withChannel_mQueue : (s.withChannel c).mQueue = s.mQueue := rfl
@[simp] theorem State.withChannel_outputs : (s.withChannel c).outputs = s.outputs := rfl
@[simp] theorem State.withChannel_draws : (s.withChannel c).draws = s.draws := rfl
@[simp] theorem State.withChannel_pending : (s.withChannel c).pending = s.pending := rfl
@[simp] theorem State.withChannel_trib (x : TribId) : (s.withChannel c).trib x = s.trib x := rfl
@[simp] theorem State.withChannel_carrier (x : CarrierId) : (s.withChannel c).carrier x = s.carrier x := rfl
@[simp] theorem State.withChannel_parent (x : Fin 32) : (s.withChannel c).parent x = s.parent x := rfl
@[simp] theorem State.withChannel_sub (x : Fin 64) : (s.withChannel c).sub x = s.sub x := rfl
@[simp] theorem State.withChannel_counter (x : Fin 8) : (s.withChannel c).counter x = s.counter x := rfl
@[simp] theorem State.withChannel_sourceList (x : Source) : (s.withChannel c).sourceList x = s.sourceList x := rfl
@[simp] theorem State.withChannel_freeParent? : (s.withChannel c).freeParent? = s.freeParent? := rfl
@[simp] theorem State.withChannel_freeSubReads : (s.withChannel c).freeSubReads = s.freeSubReads := rfl
@[simp] theorem State.withChannel_forwardedWrites : (s.withChannel c).forwardedWrites = s.forwardedWrites := rfl

/-! ### Updates -/

@[simp] theorem State.setTrib_withChannel (t : TribId) (r : Tributary) : (s.withChannel c).setTrib t r = (s.setTrib t r).withChannel c := rfl
@[simp] theorem State.setCarrier_withChannel (d : CarrierId) (r : Carrier) : (s.withChannel c).setCarrier d r = (s.setCarrier d r).withChannel c := rfl
@[simp] theorem State.setParent_withChannel (i : Fin 32) (r : Parent) : (s.withChannel c).setParent i r = (s.setParent i r).withChannel c := rfl
@[simp] theorem State.setSub_withChannel (k : Fin 64) (r : SubRead) : (s.withChannel c).setSub k r = (s.setSub k r).withChannel c := rfl
@[simp] theorem State.setSourceList_withChannel (src : Source) (l : List (Fin 32)) : (s.withChannel c).setSourceList src l = (s.setSourceList src l).withChannel c := rfl
@[simp] theorem State.refreshReady_withChannel : (s.withChannel c).refreshReady = s.refreshReady.withChannel c := rfl
@[simp] theorem State.enqueue_withChannel (rs : List MRequest) : (s.withChannel c).enqueue rs = (s.enqueue rs).withChannel c := rfl
@[simp] theorem State.issueFetch_withChannel : (s.withChannel c).issueFetch = s.issueFetch.withChannel c := rfl
@[simp] theorem State.rewriteMap_withChannel (ch : PendingChange) (a : ApplyAt) : (s.withChannel c).rewriteMap ch a = (s.rewriteMap ch a).withChannel c := rfl
@[simp] theorem State.alarmEverywhere_withChannel (t : TribId) : (s.withChannel c).alarmEverywhere t = (s.alarmEverywhere t).withChannel c := rfl
@[simp] theorem State.openParent_withChannel (i : Fin 32) (r : URead) (cls : ReadClass) (d : Option CarrierId)
    (words : List (Option Word)) (status : Status) (n : Nat) :
    (s.withChannel c).openParent i r cls d words status n = (s.openParent i r cls d words status n).withChannel c := rfl

@[simp] theorem State.raise_withChannel (e : Event) : (s.withChannel c).raise e = (s.raise e).withChannel c := by
  have h := State.raise_congr e (s := s) (t := s.withChannel c) ⟨rfl, rfl, rfl, rfl, rfl⟩
  rw [(raise_reported (s.withChannel c) e).eq, (raise_reported s e).eq, h.events, h.monitor, h.draws, h.mQueue]
  rfl

@[simp] theorem State.report_withChannel (o : Occurrence) : (s.withChannel c).report o = (s.report o).withChannel c := by
  have h := State.report_congr o (s := s) (t := s.withChannel c) ⟨rfl, rfl, rfl, rfl, rfl⟩
  rw [(report_reported (s.withChannel c) o).eq, (report_reported s o).eq, h.events, h.monitor, h.draws, h.mQueue]
  rfl

@[simp] theorem State.completeWith_withChannel (g : Option (List Position)) (code : Completion) (data : List Byte) :
    (s.withChannel c).completeWith g code data = (s.completeWith g code data).withChannel c := by
  unfold State.completeWith; dsimp only
  split <;> (split <;> first | rfl | contradiction)

/-! ### Writes -/

@[simp] theorem State.forwardWrite_withChannel (w : UWrite) :
    (s.withChannel c).forwardWrite w = (s.forwardWrite w).withChannel c := by
  simp [State.forwardWrite]

@[simp] theorem State.completePage_withChannel (t : TribId) (page : BitVec 3) :
    (s.withChannel c).completePage t page = (s.completePage t page).withChannel c := by
  simp only [State.completePage, State.withChannel_trib, State.setTrib_withChannel, State.report_withChannel,
    State.raise_withChannel]
  split
  · rfl
  · split <;> rfl

@[simp] theorem State.straySlot_withChannel (t : TribId) :
    (s.withChannel c).straySlot t = (s.straySlot t).withChannel c := by
  simp [State.straySlot]

@[simp] theorem State.trackWrite_withChannel (w : UWrite) :
    (s.withChannel c).trackWrite w = (s.trackWrite w).withChannel c := by
  unfold State.trackWrite
  by_cases h : (s.trib (tribOf w.address)).tracked = true
  · simp only [State.withChannel_trib, h, if_true, State.completePage_withChannel, State.straySlot_withChannel]
    split <;> rfl
  · simp only [State.withChannel_trib, h, if_false, Bool.false_eq_true]

@[simp] theorem State.handPost_withChannel (n : BitVec 16) :
    (s.withChannel c).handPost n = (s.handPost n).withChannel c := by
  unfold State.handPost
  by_cases h : s.processor.takesPost n = true
  · rw [if_pos (show (s.withChannel c).processor.takesPost n = true from h), if_pos h]
    dsimp only
    by_cases h' : s.processor.phase = .idle ∧ n ≠ s.processor.done
    · rw [if_pos (show (s.withChannel c).processor.phase = .idle ∧ n ≠ (s.withChannel c).processor.done from h'),
        if_pos h']
      rfl
    · rw [if_neg (show ¬((s.withChannel c).processor.phase = .idle ∧ n ≠ (s.withChannel c).processor.done) from h'),
        if_neg h']
      rfl
  · rw [if_neg (show ¬(s.withChannel c).processor.takesPost n = true from h), if_neg h]
    simp

@[simp] theorem State.handTake_withChannel (n : BitVec 16) :
    (s.withChannel c).handTake n = (s.handTake n).withChannel c := by
  unfold State.handTake
  dsimp only
  by_cases h : (n - s.events.taken).toNat ≤ (s.events.written - s.events.taken).toNat
  · rw [if_pos (show (n - (s.withChannel c).events.taken).toNat
      ≤ ((s.withChannel c).events.written - (s.withChannel c).events.taken).toNat from h), if_pos h]
    rfl
  · rw [if_neg (show ¬(n - (s.withChannel c).events.taken).toNat
      ≤ ((s.withChannel c).events.written - (s.withChannel c).events.taken).toNat from h), if_neg h]

@[simp] theorem State.noteWrite_withChannel (w : UWrite) :
    (s.withChannel c).noteWrite w = (s.noteWrite w).withChannel c := by
  unfold State.noteWrite
  split
  · simp
  · split
    · simp
    · split <;> simp

/-! ### Cycle starts -/

@[simp] theorem State.applyChange_withChannel (ch : PendingChange) (a : ApplyAt) :
    (s.withChannel c).applyChange ch a = (s.applyChange ch a).withChannel c := by
  simp [State.applyChange]

@[simp] theorem State.reportEvaluation_withChannel (t : TribId) (d : CarrierId) (tr : Tributary) (e : Evaluation) :
    (s.withChannel c).reportEvaluation t d tr e = (s.reportEvaluation t d tr e).withChannel c := by
  unfold State.reportEvaluation
  split <;> cases e.slip <;> cases e.moved <;> simp

@[simp] theorem State.evaluationOf_withChannel (d : CarrierId) (t : TribId) :
    (s.withChannel c).evaluationOf d t = s.evaluationOf d t := rfl

@[simp] theorem State.evaluate_withChannel (d : CarrierId) (t : TribId) :
    (s.withChannel c).evaluate d t = (s.evaluate d t).withChannel c := by
  simp only [State.evaluate, State.evaluationOf_withChannel]
  split <;> simp

@[simp] theorem State.evaluateAll_withChannel (d : CarrierId) :
    (s.withChannel c).evaluateAll d = (s.evaluateAll d).withChannel c := by
  have h : ∀ (l : List TribId) (s : State), l.foldl (fun s t => s.evaluate d t) (s.withChannel c)
      = (l.foldl (fun s t => s.evaluate d t) s).withChannel c := by
    intro l
    induction l with
    | nil => exact fun _ => rfl
    | cons t l ih => intro s; simp only [List.foldl_cons, State.evaluate_withChannel, ih]
  have hp : (s.withChannel c).placedIn d = s.placedIn d := by simp only [State.placedIn, State.withChannel_tributaries]
  have he : ∀ t, (s.withChannel c).evaluationRaises d t = s.evaluationRaises d t := fun t => by
    simp only [State.evaluationRaises, State.evaluationOf_withChannel]
  have hr : (s.withChannel c).raisingIn d = s.raisingIn d := by
    simp only [State.raisingIn, hp, he, State.withChannel_draws]
  have ho : (s.withChannel c).evaluationOrder d = s.evaluationOrder d := by
    simp only [State.evaluationOrder, hp, he, hr]
  unfold State.evaluateAll
  rw [ho, hr]
  generalize s.evaluationOrder d = order
  generalize s.raisingIn d = raising
  exact h order { s with draws := drawn raising.length s.draws }

@[simp] theorem State.takePage_withChannel (d : CarrierId) (p : BitVec 3) :
    (s.withChannel c).takePage d p = (s.takePage d p).withChannel c := by
  simp only [State.takePage, State.withChannel_carrier, State.setCarrier_withChannel, State.raise_withChannel]
  split
  · split <;> rfl
  · rfl

@[simp] theorem State.countCycle_withChannel (d : CarrierId) :
    (s.withChannel c).countCycle d = (s.countCycle d).withChannel c := by
  simp [State.countCycle]

@[simp] theorem State.changeFor_withChannel (d : CarrierId) : (s.withChannel c).changeFor d = s.changeFor d := rfl

theorem State.recomputeIndications_withChannel (d : CarrierId) (s0 s4 : State) (ch : Option PendingChange) :
    (s.withChannel c).recomputeIndications d (s0.withChannel c) (s4.withChannel c) ch
      = (s.recomputeIndications d s0 s4 ch).withChannel c := rfl

@[simp] theorem State.cycleStart_withChannel (d : CarrierId) (p : BitVec 3) :
    (s.withChannel c).cycleStart d p = (s.cycleStart d p).withChannel c := by
  simp only [State.cycleStart, State.takePage_withChannel, State.countCycle_withChannel, State.changeFor_withChannel]
  split <;> simp only [State.applyChange_withChannel, State.evaluateAll_withChannel,
    State.recomputeIndications_withChannel]

/-! ### Reads -/

@[simp] theorem State.classOf_withChannel (r : URead) : (s.withChannel c).classOf r = s.classOf r := rfl
@[simp] theorem State.cycleCall_withChannel (r : URead) : (s.withChannel c).cycleCall r = s.cycleCall r := rfl
@[simp] theorem State.subReadsNeeded_withChannel (r : URead) : (s.withChannel c).subReadsNeeded r = s.subReadsNeeded r := rfl
@[simp] theorem State.wordKinds_withChannel (r : URead) : (s.withChannel c).wordKinds r = s.wordKinds r := rfl

@[simp] theorem State.withCycleStart_withChannel (r : URead) :
    (s.withChannel c).withCycleStart r = (s.withCycleStart r).withChannel c := by
  simp only [State.withCycleStart, State.cycleCall_withChannel]
  split <;> simp

@[simp] theorem State.allocate_withChannel (i : Fin 32) (first length : Nat) (t : Option TribId)
    (d : Option CarrierId) (a : Addr) (o : Origin) :
    (s.withChannel c).allocate i first length t d a o = (s.allocate i first length t d a o).withChannel c := by
  simp only [State.allocate, State.withChannel_translation]
  split <;> rfl

@[simp] theorem State.issuePiece_withChannel (i : Fin 32) (d : CarrierId) (p : Piece) :
    (s.withChannel c).issuePiece i d p = (s.issuePiece i d p).withChannel c := by
  simp [State.issuePiece]

theorem foldl_report_withChannel (os : List Occurrence) (s : State) :
    os.foldl State.report (s.withChannel c) = (os.foldl State.report s).withChannel c := by
  induction os generalizing s with
  | nil => rfl
  | cons o os ih => simp only [List.foldl_cons, State.report_withChannel, ih]

theorem foldl_issuePiece_withChannel (i : Fin 32) (d : CarrierId) (ps : List Piece) (s : State) :
    ps.foldl (fun s p => s.issuePiece i d p) (s.withChannel c)
      = (ps.foldl (fun s p => s.issuePiece i d p) s).withChannel c := by
  induction ps generalizing s with
  | nil => rfl
  | cons p ps ih => simp only [List.foldl_cons, State.issuePiece_withChannel, ih]

@[simp] theorem State.acceptRead_withChannel (i : Fin 32) (r : URead) :
    (s.withChannel c).acceptRead i r = (s.acceptRead i r).withChannel c := by
  unfold State.acceptRead
  rw [State.classOf_withChannel]
  cases s.classOf r
  · simp only [State.acceptTranslated, State.wordKinds_withChannel, State.openParent_withChannel, State.withChannel_draws]
    rw [← foldl_issuePiece_withChannel, ← foldl_report_withChannel]
    rfl
  · rfl
  · simp only [State.acceptOffCarrier, State.withChannel_processor, State.openParent_withChannel, State.report_withChannel]
  · simp only [State.acceptPass, State.openParent_withChannel, State.allocate_withChannel, State.report_withChannel]
  · simp only [State.acceptMalformed, State.openParent_withChannel, State.raise_withChannel]

@[simp] theorem State.holdRead_withChannel (r : URead) (b : Bool) :
    (s.withChannel c).holdRead r b = (s.holdRead r b).withChannel c := by
  simp only [State.holdRead, State.report_withChannel]
  split <;> rfl

/-- An offered read does the same whatever waits on the channel (R98). -/
theorem State.offerRead_withChannel (r : URead) (b : Bool) :
    (s.withChannel c).offerRead r b = ((s.offerRead r b).1.withChannel c, (s.offerRead r b).2) := by
  simp only [State.offerRead, State.withChannel_freeParent?]
  split
  · simp
  · simp only [State.withCycleStart_withChannel, State.subReadsNeeded_withChannel, State.withChannel_freeSubReads]
    split <;> simp

/-- An offered write does the same whatever waits on the channel (R134). -/
theorem State.offerWrite_withChannel (w : UWrite) :
    (s.withChannel c).offerWrite w = ((s.offerWrite w).1.withChannel c, (s.offerWrite w).2) := by
  simp only [State.offerWrite, State.dropStray, State.withChannel_forwardedWrites]
  split
  · simp
  · split <;> simp [*]

/-- An offered request does the same whatever waits on the channel (R134). -/
theorem State.offer_withChannel (h : Held) :
    (s.withChannel c).offer h = ((s.offer h).1.withChannel c, (s.offer h).2) := by
  obtain ⟨q, b⟩ := h
  cases q
  · exact State.offerRead_withChannel s c _ b
  · exact State.offerWrite_withChannel s c _

/-- The requests of a channel are offered the same whatever the state says of the channel (R134). -/
theorem State.offerAll_withChannel (l : List Held) : (s.withChannel c).offerAll l = s.offerAll l := by
  induction l generalizing s with
  | nil => rfl
  | cons h rest ih =>
    simp only [State.offerAll, State.offer_withChannel]
    rcases s.offer h with ⟨t, b⟩
    cases b
    · rfl
    · exact ih t

end Sys2Proof.Machine
end

