-- ==== Sys2Proof/Laws/Requests.lean ====
section
/-! SUPPORT. The classes of requests: what a well-formed request row says of its address and flags (R133, R141), and that every row presents its request. -/

namespace Sys2Proof.Machine

/-- Every request row presents its request at the channel (R134). -/
theorem requestRow_write (w : UWrite) : requestRow (.write w) =
    match region w.address with
    | .tributary => .tributaryRegionWrite w
    | .window => .strayWrite w
    | _ =>
      if isPostWordWrite w then .postWordWrite w
      else if isTakeWordWrite w then .takeWordWrite w
      else .passWrite w := rfl

theorem tributaryRegionWrite_wellFormed {w : UWrite} (h : (Instr.tributaryRegionWrite w).wellFormed = true) :
    region w.address = .tributary := by
  have h : requestRow (.write w) = .tributaryRegionWrite w := eq_of_beq h
  rw [requestRow_write] at h
  split at h <;> (try split at h) <;> (try split at h) <;> first | assumption | cases h

theorem strayWrite_wellFormed {w : UWrite} (h : (Instr.strayWrite w).wellFormed = true) :
    region w.address = .window := by
  have h : requestRow (.write w) = .strayWrite w := eq_of_beq h
  rw [requestRow_write] at h
  split at h <;> (try split at h) <;> (try split at h) <;> first | assumption | cases h

theorem passWrite_wellFormed {w : UWrite} (h : (Instr.passWrite w).wellFormed = true) :
    region w.address ≠ .window ∧ region w.address ≠ .tributary ∧ isPostWordWrite w = false
      ∧ isTakeWordWrite w = false := by
  have h : requestRow (.write w) = .passWrite w := eq_of_beq h
  rw [requestRow_write] at h
  split at h <;> (try split at h) <;> (try split at h) <;> first | cases h; done | simp_all

theorem postWordWrite_wellFormed {w : UWrite} (h : (Instr.postWordWrite w).wellFormed = true) :
    region w.address ≠ .window ∧ region w.address ≠ .tributary ∧ isPostWordWrite w = true := by
  have h : requestRow (.write w) = .postWordWrite w := eq_of_beq h
  rw [requestRow_write] at h
  split at h <;> (try split at h) <;> (try split at h) <;> first | cases h; done | simp_all

theorem takeWordWrite_wellFormed {w : UWrite} (h : (Instr.takeWordWrite w).wellFormed = true) :
    region w.address ≠ .window ∧ region w.address ≠ .tributary ∧ isPostWordWrite w = false
      ∧ isTakeWordWrite w = true := by
  have h : requestRow (.write w) = .takeWordWrite w := eq_of_beq h
  rw [requestRow_write] at h
  split at h <;> (try split at h) <;> (try split at h) <;> first | cases h; done | simp_all

end Sys2Proof.Machine
end

