-- ==== Sys2Proof/Laws/Responses.lean ====
section
/-! SUPPORT. All that an answer, an expiry, an abandonment and a release can do to a parent,
    a sub-read entry and its tributary. -/

namespace Sys2Proof.Machine

/-- A parent that is no malformed PASS read uses its word buffer (R105). -/
theorem Parent.usesStore_eq_false {p : Parent} (h : p.cls ≠ .pass ∨ wellFormedRead p.address p.length = true) :
    p.usesStore = false := by
  unfold Parent.usesStore
  rcases h with h | h <;> simp [h]

/-- A word of the buffer after words have been written into it (R107). -/
theorem fillWords_getElem (buf : List (Option Word)) (first : Nat) (ws : List Word) (n : Nat)
    (h : n < buf.length) (h') :
   (fillWords buf first ws)[n]'h' = if first ≤ n ∧
       n < first + ws.length then some (ws.getD (n - first) 0) else buf[n] := by
  simp [fillWords]

/-- The head of the channel is a read. -/
theorem Channel.headIsRead_iff (c : Channel) : c.headIsRead = true ↔ ∃ q b others, c.waiting = ⟨.read q,
    b⟩ :: others := by
    unfold Channel.headIsRead
    split
    · rename_i w b o h; simp [h]
    · rename_i h; refine ⟨(nomatch ·), ?_⟩; rintro ⟨w, b, o, h'⟩; exact (h _ _ _ h').elim

/-- All that the freeing of an entry does to the channel (R99). -/
theorem State.noteFreed_eq (s : State) : s.noteFreed = s.withChannel ⟨s.channel.waiting,
    s.channel.reofferDue || s.channel.headIsRead⟩ := by
  unfold State.noteFreed
  split <;> simp_all [State.withChannel]

/-- A tributary after the release of an entry that names it (R34, R35). -/
theorem Tributary.released_eq (tr : Tributary) : tr.released = { tr with
        inFlight := tr.inFlight - 1
        state := if tr.state = .retiring ∧ tr.inFlight ≤ 1 then .free else tr.state } := rfl

theorem State.reportIf_congr (o : Option Occurrence) {s t : State} (h : SameForReports s t) :
    SameForReports (s.reportIf o) (t.reportIf o) := by
  cases o with
  | none => exact h
  | some o => exact State.report_congr o h

theorem State.raiseReadFault_congr (p : Parent) {s t : State} (h : SameForReports s t) :
    SameForReports (s.raiseReadFault p) (t.raiseReadFault p) := by
  unfold State.raiseReadFault
  split
  · exact State.raise_congr _ h
  · exact h

/-- All that the report of an occurrence, if there is one, can do. -/
theorem State.reportIf_reported (s : State) (o : Option Occurrence) : Reported s (s.reportIf o) := by
  cases o with
  | none => exact .refl _
  | some o => exact report_reported _ _

/-- Where at most one source has a response that has become ready, that response is all that joins. -/
theorem Translation.filterMap_newlyReady (tr : Translation) (src : Source) (x : Option (Fin 32)) (h : ∀ o,
    o ≠ src → tr.newlyReady o = none) (hs : tr.newlyReady src = x) :
   (List.finRange 16).filterMap tr.newlyReady = x.toList := by
  have : tr.newlyReady = fun o => if o = src then x else none := by
    funext o; split
    · rename_i h'; rw [h', hs]
    · rename_i h'; exact h o h'
  rw [this]
  cases x with
  | none => simp
  | some a =>
    revert src; intro src _ _ _
    clear * -
    revert src
    have : ∀ src : Fin 16, (List.finRange 16).filterMap (fun o => if o = src then some () else none) = [()] :=
        by decide
    intro src
    have h2 := congrArg (List.map fun _ => a) (this src)
    simp only [List.map_filterMap] at h2
    rw [show (some a).toList = List.map (fun _ => a) [()] from rfl, ← h2]
    congr 1
    funext o
    split <;> rfl

/-- Which response has become ready (R108). -/
theorem Translation.newlyReady_eq_some (tr : Translation) (src : Source) (i : Fin 32) : tr.newlyReady src = some i ↔
   tr.lists[src].head? = some i ∧ tr.parents[i].state = .complete ∧ i ∉ tr.ready := by
  unfold Translation.newlyReady
  cases h : tr.lists[src].head? with
  | none => simp
  | some j =>
    dsimp only
    constructor
    · intro hx
      split at hx
      · cases hx; exact ⟨rfl, by assumption⟩
      · cases hx
    · rintro ⟨a, b⟩; cases a; rw [if_pos b]

theorem Translation.ListsSound.mem_ready {tr : Translation} (hl : tr.ListsSound) {j : Fin 32} {o : Source} (hs :
    tr.parents[j].source = o) (hc : tr.parents[j].state = .complete)
    (hh : tr.lists[o].head? = some j) : j ∈ tr.ready := by
  subst hs; exact (hl.ready j).2 ⟨hc, hh⟩

/-- All that a READ-FAULT can do (R126). -/
theorem State.raiseReadFault_reported (s : State) (p : Parent) : Reported s (s.raiseReadFault p) := by
  unfold State.raiseReadFault
  split
  · exact raise_reported _ _
  · exact .refl _

theorem faultReported_eq (s : State) (p : Parent) : faultReported s p = s.raiseReadFault p := rfl

/-- All that the account of a parent can do (R107, R126). -/
theorem State.accountParent_spec (s : State) (i : Fin 32) (p : Parent) (o : Option Occurrence) :
   let r := faultReported (s.reportIf o) p
   let t := s.accountParent i p o
   t.parent i = p ∧ (∀ j : Fin 32, j ≠ i → t.parent j = s.parent j) ∧ t.translation.lists = s.translation.lists ∧
   t.translation.subReads = s.translation.subReads ∧ ReportsAs r t ∧ t.tributaries = s.tributaries ∧
   t.carriers = s.carriers ∧ t.change = s.change ∧ t.processor = s.processor ∧ t.response = s.response ∧
    t.outputs = s.outputs ∧ t.pending = s.pending ∧ t.channel = s.channel ∧
   SameForReports r t := by
  intro r t
  have h1 : SameForReports r (((s.setParent i p).reportIf o).raiseReadFault p) :=
    State.raiseReadFault_congr _ (State.reportIf_congr _ ⟨rfl, rfl, rfl, rfl, rfl⟩)
  have hrep : Reported (s.setParent i p)
      (((s.setParent i p).reportIf o).raiseReadFault p) :=
      (State.reportIf_reported _ _).trans (State.raiseReadFault_reported _ _)
  have ht : t = State.refreshReady (((s.setParent i p).reportIf o).raiseReadFault p) := rfl
  rw [ht]
  generalize (((s.setParent i p).reportIf o).raiseReadFault p) = v at h1 hrep
  refine ⟨?_, ?_, ?_, ?_, ?_, ?_, ?_, ?_, ?_, ?_, ?_, ?_, ?_, ?_⟩
  · simp [hrep.parent]
  · intro j hj; simp [hrep.parent, State.parent_setParent_ne _ _ _ _ hj]
  · simp [hrep.translation]
  · simp [hrep.translation]
  · exact ⟨⟨h1.events, h1.monitor, h1.draws⟩, h1.mQueue⟩
  · simp [hrep.tributaries]
  · simp [hrep.carriers]
  · simp [hrep.change]
  · simp [hrep.processor]
  · simp [hrep.response]
  · simp [hrep.outputs]
  · simp [hrep.pending]
  · simp [hrep.channel]
  · exact ⟨h1.events, h1.monitor, h1.draws, h1.mQueue, h1.microseconds⟩

/-- The ready responses after the account of a parent entry: it joins them when it has become COMPLETE and stands first in its
source's list (R108, R109). -/
theorem State.accountParent_ready (s : State) (i : Fin 32) (p : Parent) (o : Option Occurrence)
    (hl : s.translation.ListsSound) (hs : p.source = (s.parent i).source) : JoinsReady s (s.accountParent i p o) i := by
  have hrep : Reported (s.setParent i p) (((s.setParent i p).reportIf o).raiseReadFault p) :=
    (State.reportIf_reported _ _).trans (State.raiseReadFault_reported _ _)
  have hr : (s.accountParent i p o).translation.ready =
      s.translation.ready ++ (List.finRange 16).filterMap (s.setParent i p).translation.newlyReady := by
    show (State.refreshReady (((s.setParent i p).reportIf o).raiseReadFault p)).translation.ready = _
    unfold State.refreshReady
    simp [hrep.translation]
  have hlists : ∀ src : Source, (s.setParent i p).translation.lists[src] = s.translation.lists[src] := fun _ => rfl
  have hself : (s.setParent i p).translation.parents[i] = p := State.parent_setParent_self ..
  have hne : ∀ j : Fin 32, j ≠ i → (s.setParent i p).translation.parents[j] = s.translation.parents[j] := fun j hj =>
    State.parent_setParent_ne _ _ _ _ hj
  unfold JoinsReady
  rw [hr, (State.accountParent_spec s i p o).1]
  congr 1
  have key : ∀ (src : Source) (j : Fin 32), (s.setParent i p).translation.newlyReady src = some j →
      j = i ∧ src = p.source := by
    intro src j hj
    obtain ⟨hh, hcj, hn⟩ := (Translation.newlyReady_eq_some _ _ _).1 hj
    rw [hlists] at hh
    have hheld := (hl.held src j).1 (List.mem_of_mem_head? (by rw [hh]; rfl))
    by_cases hji : j = i
    · subst hji
      exact ⟨rfl, hheld.2.symm.trans hs.symm⟩
    · rw [hne j hji] at hcj
      exact absurd (hl.mem_ready hheld.2 hcj hh) hn
  rw [Translation.filterMap_newlyReady _ p.source ((s.setParent i p).translation.newlyReady p.source) ?_ rfl]
  · split
    · next h =>
      rw [show (s.setParent i p).translation.newlyReady p.source = some i from
        (Translation.newlyReady_eq_some _ _ _).2 ⟨by rw [hlists, hs]; exact h.2.2, by rw [hself]; exact h.2.1,
          fun hm => h.1 ((hl.ready i).1 hm).1⟩]
      rfl
    · next h =>
      cases hx : (s.setParent i p).translation.newlyReady p.source with
      | none => rfl
      | some j =>
        obtain ⟨rfl, -⟩ := key _ _ hx
        obtain ⟨hh, hcj, hn⟩ := (Translation.newlyReady_eq_some _ _ _).1 hx
        rw [hlists, hs] at hh
        rw [hself] at hcj
        exact absurd ⟨fun hp => hn (hl.mem_ready rfl hp hh), hcj, hh⟩ h
  · intro src hsrc
    cases hx : (s.setParent i p).translation.newlyReady src with
    | none => rfl
    | some j => exact absurd (key _ _ hx).2 hsrc

/-- An answer leaves a parent's source. -/
@[simp] theorem Parent.answered_source (p : Parent) (e : SubRead) (result : MemResult) (words : List Word) :
    (p.answered e result words).source = p.source := by
  unfold Parent.answered Parent.settled Parent.withWords
  dsimp only
  split <;> split <;> rfl

/-- An expiry leaves a parent's source. -/
@[simp] theorem Parent.expired_source (p : Parent) (e : SubRead) (fill : Word) : (p.expired e fill).source = p.source := by
  unfold Parent.expired Parent.settled Parent.withWords
  dsimp only
  split <;> rfl

/-- The ready responses after an expiry (R108, R109, R119). -/
theorem State.expireSub_ready (s : State) (k : Fin 64) (hl : s.translation.ListsSound) :
    JoinsReady s (s.expireSub k) (s.sub k).parent :=
  State.accountParent_ready (s.setSub k { s.sub k with state := .expired }) _ _ _ ⟨hl.nodup, hl.held, hl.readyNodup, hl.ready⟩
    (Parent.expired_source ..)

/-- All that the release of entry k can do,
    from a state `w` that agrees with `s` on all but reports and the parents (R123). -/
theorem State.release_spec (s w : State) (k : Fin 64)
    (hsub : w.translation.subReads = s.translation.subReads) (htr : w.tributaries = s.tributaries)
        (hch : w.channel = s.channel)
    (hca : w.carriers = s.carriers) (hchg : w.change = s.change) (hpr : w.processor = s.processor)
        (hre : w.response = s.response)
    (ho : w.outputs = s.outputs) (hp : w.pending = s.pending) :
    Releases s w (w.release k) k ∧ (w.release k).translation.parents = w.translation.parents ∧
        (w.release k).translation.lists = w.translation.lists ∧
        (w.release k).translation.ready = w.translation.ready := by
  have htrib : ∀ u, w.trib u = s.trib u := fun u => by simp [State.trib, htr]
  have hs : ∀ u, w.sub u = s.sub u := fun u => by simp [State.sub, hsub]
  have key : ∃ v : State, w.release k = v.noteFreed ∧
      v.translation = (w.setSub k { w.sub k with state := .free }).translation ∧
      v.channel = s.channel ∧ v.carriers = s.carriers ∧ v.change = s.change ∧ v.processor = s.processor ∧
          v.response = s.response ∧ v.outputs = s.outputs ∧ v.pending = s.pending ∧
      (∀ u : TribId, (s.sub k).trib ≠ some u → v.trib u = s.trib u) ∧
    (∀ u : TribId, (s.sub k).trib = some u → v.trib u = (s.trib u).released) ∧
    (∀ u : TribId, (s.sub k).trib = some u → (s.trib u).state = .retiring → (s.trib u).inFlight ≤ 1 →
      ReportsAs (w.raise (.tribRetired u)) v) ∧
    ((∀ u : TribId, (s.sub k).trib = some u → (s.trib u).state = .retiring → 1 < (s.trib u).inFlight) →
      ReportsAs w v) := by
    unfold State.release
    dsimp only
    rw [hs]
    cases hk : (s.sub k).trib with
    | none =>
      refine ⟨_, rfl, rfl, hch, hca, hchg, hpr, hre, ho, hp, ?_, nofun, nofun, fun _ => ⟨⟨rfl, rfl, rfl⟩, rfl⟩⟩
      intro u _; simp [htrib]
    | some t =>
      dsimp only
      unfold State.releaseTrib
      dsimp only
      simp only [State.setSub_trib, htrib]
      by_cases hc : (s.trib t).state = .retiring ∧ (s.trib t).inFlight ≤ 1
      · rw [if_pos hc]
        have hcong := State.raise_congr (s := w) (t := (w.setSub k ⟨.free, (s.sub k).generation,
            (s.sub k).parent, (s.sub k).first, (s.sub k).length, some t, (s.sub k).carrier, (s.sub k).address,
            (s.sub k).issue, (s.sub k).interval⟩).setTrib t (s.trib t).released) (.tribRetired t) ⟨rfl, rfl, rfl,
            rfl, rfl⟩
        refine ⟨_, rfl, by simp, by simp [hch], by simp [hca], by simp [hchg], by simp [hpr], by simp [hre],
            by simp [ho], by simp [hp], ?_, ?_, ?_, ?_⟩
        · intro u hu
          have : u ≠ t := fun h => hu (by rw [h])
          simp [State.trib_setTrib_ne _ _ _ _ this, htrib]
        · intro u hu; cases hu; simp
        · intro u hu _ _; cases hu; exact ⟨⟨hcong.events, hcong.monitor, hcong.draws⟩, hcong.mQueue⟩
        · intro h; have := h t rfl hc.1; omega
      · rw [if_neg hc]
        refine ⟨_, rfl, by simp, by simp [hch], by simp [hca], by simp [hchg], by simp [hpr], by simp [hre],
            by simp [ho], by simp [hp], ?_, ?_, ?_, ?_⟩
        · intro u hu
          have : u ≠ t := fun h => hu (by rw [h])
          simp [State.trib_setTrib_ne _ _ _ _ this, htrib]
        · intro u hu; cases hu; simp
        · intro u hu h1 h2; cases hu; exact absurd ⟨h1, h2⟩ hc
        · intro h; exact ⟨⟨rfl, rfl, rfl⟩, rfl⟩
  obtain ⟨v, h0, htl, h1, h2, h3, h4, h5, h6, h7, h8, h9, h10, h11⟩ := key
  rw [h0, State.noteFreed_eq]
  refine ⟨⟨?_, ?_, ?_, ?_, ?_, ?_, ?_, ?_, ?_, ?_, ?_, ?_, ?_, ?_⟩, ?_, ?_, ?_⟩
  · simp [State.sub, htl, hsub]
  · intro l hl
    have : State.sub v l = (w.setSub k { w.sub k with state := .free }).sub l := by simp [State.sub, htl]
    simp [this, State.sub_setSub_ne _ _ _ _ hl, hs]
  · simpa using h8
  · simpa [Tributary.released_eq] using h9
  · simpa [ReportsAs, SameReporting] using h10
  · simpa [ReportsAs, SameReporting] using h11
  · simp [h1]
  · rw [← Channel.headIsRead_iff]; simp [h1]
  · simp [h2]
  · simp [h3]
  · simp [h4]
  · simp [h5]
  · simp [h6]
  · simp [h7]
  · simp [htl]
  · simp [htl]
  · simp [htl]

/-- A release is the same behind reports that leave the same. -/
theorem Releases.congr {s r w t k} (h : SameForReports r w) (hr : Releases s w t k) : Releases s r t k := by
  obtain ⟨h1, h2, h3, h4, h5, h6, h7, h8, h9, h10, h11, h12, h13, h14⟩ := hr
  refine ⟨h1, h2, h3, h4, ?_, ?_, h7, h8, h9, h10, h11, h12, h13, h14⟩
  · intro u a b c
    have := State.raise_congr (.tribRetired u) h
    obtain ⟨⟨x, y, z⟩, q⟩ := h5 u a b c
    exact ⟨⟨x.trans this.events, y.trans this.monitor, z.trans this.draws⟩, q.trans this.mQueue⟩
  · intro a
    obtain ⟨⟨x, y, z⟩, q⟩ := h6 a
    exact ⟨⟨x.trans h.events, y.trans h.monitor, z.trans h.draws⟩, q.trans h.mQueue⟩

/-- All that an answer to ISSUED entry k can do (R117, R118). -/
theorem State.answer_spec (s : State) (k : Fin 64) (result : MemResult) (words : List Word) :
    let e := s.sub k
    let p := s.parent e.parent
    let t := s.answer k result words
    let q := p.answered e result words
    t.parent e.parent = q ∧ (∀ j : Fin 32, j ≠ e.parent → t.parent j = s.parent j) ∧
      t.translation.lists = s.translation.lists ∧
      Releases s (faultReported (if answerFaults p e result words then s.report ⟨.faultSubreads, 1, e.carrier,
          e.trib⟩ else s) q) t k := by
  intro e p t q
  have hs := State.accountParent_spec s e.parent q (if answerFaults p e result words then some ⟨.faultSubreads,
      1, e.carrier, e.trib⟩ else none)
  obtain ⟨a1, a2, a3, a4, a5, a6, a7, a8, a9, a10, a11, a12, a13, a14⟩ := hs
  have ht : t = (s.accountParent e.parent q (if answerFaults p e result words then some ⟨.faultSubreads, 1,
      e.carrier, e.trib⟩ else none)).release k := rfl
  rw [ht]
  generalize s.accountParent e.parent q (if answerFaults p e result words then some ⟨.faultSubreads, 1,
      e.carrier, e.trib⟩ else none) = w at *
  obtain ⟨b1, b2, b3, b4⟩ := State.release_spec s w k a4 a6 a13 a7 a8 a9 a10 a11 a12
  refine ⟨?_, ?_, ?_, ?_⟩
  · simpa [State.parent, b2] using a1
  · intro j hj; have := a2 j hj; simpa [State.parent, b2] using this
  · rw [b3, a3]
  · refine Releases.congr ?_ b1
    by_cases hx : answerFaults p e result words = true
    · rw [if_pos hx] at a14 ⊢; exact a14
    · rw [if_neg hx] at a14 ⊢; exact a14

/-- The ready responses after an answer (R108, R109, R117, R118). -/
theorem State.answer_ready (s : State) (k : Fin 64) (result : MemResult) (words : List Word)
    (hl : s.translation.ListsSound) : JoinsReady s (s.answer k result words) (s.sub k).parent := by
  have h := State.accountParent_ready s (s.sub k).parent ((s.parent (s.sub k).parent).answered (s.sub k) result words)
    (if answerFaults (s.parent (s.sub k).parent) (s.sub k) result words
      then some ⟨.faultSubreads, 1, (s.sub k).carrier, (s.sub k).trib⟩ else none) hl
    (Parent.answered_source ..)
  unfold State.answer
  dsimp only
  generalize s.accountParent _ _ _ = w at h ⊢
  obtain ⟨-, hp, -, hr⟩ := State.release_spec w w k rfl rfl rfl rfl rfl rfl rfl rfl rfl
  unfold JoinsReady at h ⊢
  rw [hr, h]
  unfold State.parent
  rw [hp]

/-- The M-tag of an M-side read names its own entry (Figure 12-2). -/
theorem mTag_names (entry : Nat) (generation : BitVec 2) (fetchPool epoch : Bool) :
    TagNames (mTag entry generation fetchPool epoch) (entry % 256) generation fetchPool epoch :=
  ⟨tagEntry_mTag .., tagGeneration_mTag .., tagFetchPool_mTag .., tagEpoch_mTag ..⟩

/-- A response that names entry k is sorted on its state alone (R116). -/
theorem State.takeResponse_names {s : State} {k : Fin 64} {tag result words}
    (ht : TagNames tag k.val (s.sub k).generation false s.response.epoch) :
   s.takeResponse tag result words =
    match (s.sub k).state with
      | .free => s.staleResponse
      | .issued => s.answer k result words
      | .expired => s.lateArrival k := by
  obtain ⟨h1, h2, h3, h4⟩ := ht
  have hk : tagEntry tag = k.val := h1
  rw [State.takeResponse, if_neg (by simpa [tagEpoch] using h4), if_neg (by simpa [tagFetchPool] using h3),
    State.subResponse, dif_pos (by rw [hk]; exact k.isLt)]
  have : (⟨tagEntry tag, by rw [hk]; exact k.isLt⟩ : Fin 64) = k := Fin.ext hk
  simp only [this]
  exact (if_neg (by simpa [tagGeneration] using h2.symm)).trans (by cases (s.sub k).state <;> rfl)

/-- A response that names the outstanding fetch is its answer (R129). -/
theorem State.takeResponse_fetch {s : State} {tag result words} (hi : s.response.fetch.issued = true)
    (ht : TagNames tag 0 s.response.fetch.generation true s.response.epoch) :
   s.takeResponse tag result words =
    if result = .good ∧ 8 ≤ words.length then
      (s.beginCommand (recordOfWords words)).run (Command.ofRecord (recordOfWords words))
    else s.freeFetch.complete .fetchError [] := by
  obtain ⟨h1, h2, h3, h4⟩ := ht
  rw [State.takeResponse, if_neg (by simpa [tagEpoch] using h4), if_pos (show tagFetchPool tag = true from h3),
    State.fetchResponse, if_neg]
  simp only [hi, Bool.not_true, Bool.false_eq_true, not_or, not_false_eq_true, true_and, not_not]
  exact ⟨h1, h2.symm⟩

end Sys2Proof.Machine
end

