-- ==== Sys2Proof/Laws/Reads.lean ====
section
/-! SUPPORT. All that the acceptance of a read can do: the parent entry it takes,
    its place in the list of its source, and the sub-reads of its pieces. -/

namespace Sys2Proof.Machine

theorem inWindow_iff (r : URead) : r.inWindow = true ↔ region r.address = .window := by simp [URead.inWindow]

/-- The state in which an offered read is classed is the one after its cycle start (R61, R98 step 2). -/
theorem State.withCycleStart_eq (s : State) (r : URead) : s.withCycleStart r = s.whenOffered r := by
  unfold State.withCycleStart State.cycleCall State.whenOffered CallsForCycleStart
  simp only [URead.inWindow, URead.wellFormed, Bool.and_eq_true, decide_eq_true_eq, bne_iff_ne, and_assoc]
  split <;> rename_i h <;> split at h <;> simp_all

/-- Every request row presents its request at the channel (R134). -/
theorem exec_requestRow (q : URequest) (s : State) : exec (requestRow q) s = .next (s.present q) := by
  unfold requestRow
  split
  · split <;> rfl
  · split
    · rfl
    · rfl
    · split
      · rfl
      · split <;> rfl

/-- A write at a free head with room in the M-side queue is forwarded and noted (R134, R137). -/
theorem State.present_write {s : State} {w : UWrite} (hw : s.channel.waiting = [])
    (hr : region w.address ≠ .window) (hf : s.forwardedWrites < 32) :
   s.present (.write w) = { (s.forwardWrite w).noteWrite w with channel := ⟨[], false⟩ } := by
  unfold State.present
  rw [hw]
  simp [State.offerAll, State.offer, State.offerWrite, hr, hf]

/-- A read at a free head is offered (R98, R134). -/
theorem State.present_read {s : State} {r : URead} (hw : s.channel.waiting = []) :
   s.present (.read r) = match s.offerRead r false with
     | (t, true) => t.withChannel ⟨[], false⟩
     | (t, false) => t.withChannel ⟨[⟨.read r, true⟩], false⟩ := by
  unfold State.present
  rw [hw]
  simp only [State.offerAll, State.offer]
  split <;> rename_i h <;> first | (simp [h]; rfl) | rfl

theorem State.freeParent?_eq_none {s : State} (h : ∀ i : Fin 32,
    (s.parent i).state ≠ .free) : s.freeParent? = none := by
  unfold State.freeParent?
  rw [lowest?_eq_none]
  intro i; exact decide_eq_false (h i)

theorem State.freeParent?_eq_some {s : State} {i : Fin 32} (h : (s.parent i).state = .free) (h' : ∀ j : Fin 32,
    j < i → (s.parent j).state ≠ .free) :
   s.freeParent? = some i := by
  unfold State.freeParent?
  rcases hx : lowest? (fun p : Parent => decide (p.state = .free)) s.translation.parents with _ | j
  · rw [lowest?_eq_none] at hx
    have := hx i
    simp at this; exact absurd h this
  · obtain ⟨h1, h2⟩ := lowest?_spec hx
    rcases lt_trichotomy i j with hl | hl | hl
    · have := h2 i hl; simp at this; exact absurd h this
    · rw [hl]
    · have := h' j hl; simp at h1; exact absurd h1 this

theorem State.lowestFreeSub_eq_some {s : State} {i : Fin 64} (h : (s.sub i).state = .free) (h' : ∀ j : Fin 64,
    j < i → (s.sub j).state ≠ .free) :
   lowest? (fun e : SubRead => decide (e.state = .free)) s.translation.subReads = some i := by
  rcases hx : lowest? (fun p : SubRead => decide (p.state = .free)) s.translation.subReads with _ | j
  · rw [lowest?_eq_none] at hx
    have := hx i
    simp at this; exact absurd h this
  · obtain ⟨h1, h2⟩ := lowest?_spec hx
    rcases lt_trichotomy i j with hl | hl | hl
    · have := h2 i hl; simp at this; exact absurd h this
    · rw [hl]
    · have := h' j hl; simp at h1; exact absurd h1 this

/-- The entry that a read takes (R94). -/
abbrev parentEntry (r : URead) (cls : ReadClass) (c : Option CarrierId) (words : List (Option Word))
    (status : Status) (n : Nat) : Parent where
  state := if n = 0 then .complete else .opened
  source := r.source
  tag := r.tag
  address := r.address
  length := r.length
  cls := cls
  carrier := c
  words := words
  store := []
  status := status
  outstanding := n
  late := 0
  faults := 0

/-- All that taking a parent entry does (R94, R95, R108). -/
theorem State.openParent_spec (s : State) (i : Fin 32) (r : URead) (cls c words status n)
    (hl : s.translation.ListsSound) (hi : (s.parent i).state = .free) :
   let t := s.openParent i r cls c words status n
   t.parent i = parentEntry r cls c words status n ∧
   (∀ j : Fin 32, j ≠ i → t.parent j = s.parent j) ∧
    t.sourceList r.source = s.sourceList r.source ++ [i] ∧
    (∀ src : Source, src ≠ r.source → t.sourceList src = s.sourceList src) ∧
    (t.translation.ready = s.translation.ready ++
      if (t.parent i).state = .complete ∧ s.sourceList r.source = [] then [i] else []) ∧
   t.translation.subReads = s.translation.subReads ∧
   t = { s with translation := t.translation } := by
  intro t
  have ht : t = ((s.setParent i (parentEntry r cls c words status n)).setSourceList r.source (s.sourceList r.source ++ [i])).refreshReady := rfl
  generalize hp : (parentEntry r cls c words status n : Parent) = p at ht ⊢
  have hsrc : p.source = r.source := by rw [← hp]
  have h1 : t.parent i = p := by rw [ht]; simp
  have h2 : ∀ j : Fin 32, j ≠ i → t.parent j = s.parent j := by
    intro j hj; rw [ht]; simp [State.parent_setParent_ne _ _ _ _ hj]
  have h3 : t.sourceList r.source = s.sourceList r.source ++ [i] := by rw [ht]; simp
  have h4 : ∀ src : Source, src ≠ r.source → t.sourceList src = s.sourceList src := by
    intro src hs; rw [ht]; simp [State.sourceList_setSourceList_ne _ _ _ _ hs]
  refine ⟨h1, h2, h3, h4, ?_, by rw [ht]; simp, by rw [ht]; rfl⟩
  have hr : t.translation.ready = s.translation.ready ++ (List.finRange 16).filterMap
      ((s.setParent i p).setSourceList r.source (s.sourceList r.source ++ [i])).translation.newlyReady := by
    rw [ht]; rfl
  rw [hr]
  congr 1
  have hir : i ∉ s.translation.ready := by
    intro h; have := ((hl.ready i).1 h).1
    rw [show s.translation.parents[i].state = .free from hi] at this; cases this
  rw [Translation.filterMap_newlyReady _ r.source (if (t.parent i).state = .complete ∧
      s.sourceList r.source = [] then some i else none)]
  · split <;> rfl
  · intro o ho
    have hlist : ((s.setParent i p).setSourceList r.source
        (s.sourceList r.source ++ [i])).translation.lists[o] = s.translation.lists[o] := by
      have := h4 o ho; rw [ht] at this; simpa [State.sourceList] using this
    rcases hx : Translation.newlyReady _ o with _ | j
    · rfl
    · exfalso
      obtain ⟨hh, a, b⟩ := (Translation.newlyReady_eq_some _ _ _).1 hx
      rw [hlist] at hh
      have hj : j ∈ s.translation.lists[o] := List.mem_of_mem_head? (by rw [hh]; rfl)
      have hheld := (hl.held o j).1 hj
      have hji : j ≠ i := by rintro rfl; exact hheld.1 hi
      have hpar : ((s.setParent i p).setSourceList r.source
          (s.sourceList r.source ++ [i])).translation.parents[j] = s.translation.parents[j] := by
        have := h2 j hji; rw [ht] at this; simpa [State.parent] using this
      rw [hpar] at a
      exact b (Translation.ListsSound.mem_ready hl hheld.2 a hh)
  · have hlist : ((s.setParent i p).setSourceList r.source
      (s.sourceList r.source ++ [i])).translation.lists[r.source] = s.sourceList r.source ++ [i] := by
      simp
    rw [h1]
    rcases hx : Translation.newlyReady _ r.source with _ | j
    · rw [if_neg]
      rintro ⟨hc, hnil⟩
      have : ((s.setParent i p).setSourceList r.source
          (s.sourceList r.source ++ [i])).translation.newlyReady r.source = some i := by
        rw [Translation.newlyReady_eq_some, hlist, hnil]
        refine ⟨rfl, ?_, ?_⟩
        · simpa using hc
        · simpa using hir
      rw [hx] at this; cases this
    · obtain ⟨h, a, b⟩ := (Translation.newlyReady_eq_some _ _ _).1 hx
      rw [hlist] at h
      by_cases hji : j = i
      · subst hji
        have hc : p.state = .complete := by simpa using a
        rw [if_pos]
        refine ⟨hc, ?_⟩
        rcases hh : s.sourceList r.source with _ | ⟨k, l⟩
        · rfl
        · rw [hh] at h; cases h
          have hj : j ∈ s.translation.lists[r.source] := by
            have : s.translation.lists[r.source] = j :: l := hh
            rw [this]; simp
          exact absurd hi ((hl.held r.source j).1 hj).1
      · exfalso
        rcases hh : s.sourceList r.source with _ | ⟨k, l⟩
        · rw [hh] at h; cases h; exact hji rfl
        · rw [hh] at h; cases h
          have hj : j ∈ s.translation.lists[r.source] := by
            have : s.translation.lists[r.source] = j :: l := hh
            rw [this]; simp
          have hheld := (hl.held r.source j).1 hj
          have hpar : ((s.setParent i p).setSourceList r.source
              (s.sourceList r.source ++ [i])).translation.parents[j] = s.translation.parents[j] := by
            have := h2 j hji; rw [ht] at this; simpa [State.parent] using this
          rw [hpar] at a
          exact b (Translation.ListsSound.mem_ready hl hheld.2 a
              (by rw [show s.translation.lists[r.source] = j :: l from hh]; rfl))

/-- The entry that is taken, whatever the lists hold. -/
theorem State.openParent_parent (s : State) (i : Fin 32) (r : URead)
    (cls c words status n) : (s.openParent i r cls c words status n).parent i = parentEntry r cls c words status n ∧ (s.openParent i r cls c words status n).pending = s.pending := by
  unfold State.openParent
  refine ⟨?_, rfl⟩
  simp

/-- The allocation of the lowest FREE sub-read entry (R96). -/
theorem State.allocate_lowest {s : State} {k : Fin 64} (h : (s.sub k).state = .free) (h' : ∀ j : Fin 64, j < k →
    (s.sub j).state ≠ .free) (i first length t c a o) :
  s.allocate i first length t c a o = (s.setSub k ⟨.issued, (s.sub k).generation + 1, i, first, length, t, c, a,
      s.response.microseconds, s.processor.limits.readExpiry⟩).enqueue
      [.read o (mTag k.val ((s.sub k).generation + 1) false s.response.epoch) a (BitVec.ofNat 8 length)] := by
  unfold State.allocate
  rw [State.lowestFreeSub_eq_some h h']

theorem State.freeSubReads_pos {s : State} {k : Fin 64} (h : (s.sub k).state = .free) : 1 ≤ s.freeSubReads := by
  unfold State.freeSubReads countTable
  rw [Nat.one_le_iff_ne_zero]
  intro h0
  rw [List.countP_eq_zero] at h0
  have := h0 s.translation.subReads[k] (by simp)
  exact this (decide_eq_true h)

/-- Taking a parent entry and reporting is an acceptance. -/
theorem State.accepts_of_reported {s t : State} {r : URead} {i : Fin 32} {cls c words status n} (hl :
    s.translation.ListsSound) (hi : (s.parent i).state = .free)
   (hw : Reported (s.openParent i r cls c words status n) t) : Accepts s (t.withChannel ⟨[], false⟩) r i := by
  obtain ⟨h1, h2, h3, h4, h5, h6, h7⟩ := State.openParent_spec s i r cls c words status n hl hi
  refine ⟨?_, ?_, ?_, ?_, ?_, ?_, ?_, ?_, ?_, ?_, ?_⟩
  · intro j hj; simpa [hw.parent] using h2 j hj
  · simpa [State.sourceList, hw.translation] using h3
  · intro src hs; simpa [State.sourceList, hw.translation] using h4 src hs
  · simpa [hw.parent, hw.translation] using h5
  · simp [hw.carriers]; rw [h7]
  · simp [hw.change]; rw [h7]
  · simp [hw.processor]; rw [h7]
  · simp [hw.response]; rw [h7]
  · rfl
  · simp [hw.outputs]; rw [h7]
  · simp [hw.pending]; rw [h7]

theorem State.openParent_sameForReports (s : State) (i : Fin 32) (r : URead)
    (cls c words status n) : SameForReports s (s.openParent i r cls c words status n) := ⟨rfl, rfl, rfl, rfl, rfl⟩

theorem ReportsAs.of_same {r t : State} (h : SameForReports r t)
    (c) : ReportsAs r (t.withChannel c) := ⟨⟨h.events, h.monitor, h.draws⟩, h.mQueue⟩

/-- A read at a free head that calls for no cycle start and finds its entries is accepted (R98). -/
theorem State.present_read_accepted {s : State} {r : URead} {i : Fin 32} (hw : s.channel.waiting = [])
    (hi : (s.parent i).state = .free) (hi' : ∀ j : Fin 32, j < i → (s.parent j).state ≠ .free)
   (hc : s.cycleCall r = none) (hn : s.subReadsNeeded r ≤ s.freeSubReads) :
       s.present (.read r) = (s.acceptRead i r).withChannel ⟨[], false⟩ := by
  rw [State.present_read hw]
  have : s.offerRead r false = (s.acceptRead i r, true) := by
    unfold State.offerRead
    rw [State.freeParent?_eq_some hi hi']
    dsimp only
    have : s.withCycleStart r = s := by rw [State.withCycleStart, hc]
    rw [this, if_pos hn]
  rw [this]

/-- A request that is a read. -/
def MRequest.isRead (q : MRequest) : Bool := match q with | .read _ _ _ _ => true | .write _ _ _ _ _ => false

/-- The entry that a piece takes (R96, R102). -/
def State.pieceEntry (s : State) (i : Fin 32) (c : CarrierId) (p : Piece) (k : Fin 64) : SubRead :=
  { state := .issued, generation := (s.sub k).generation + 1, parent := i, first := p.first, length := p.length,
            trib := some p.trib, carrier := some c,
            address := BitVec.ofNat 32 (p.trib.val * 0x2000 + p.page.toNat * 0x400 + p.slot * 0x10),
            issue := s.response.microseconds, interval := s.processor.limits.readExpiry }

/-- The M-side read of a piece (R101, R135). -/
def State.pieceRead (s : State)
    (pk : Piece × Fin 64) : MRequest :=
    .read .own (mTag pk.2.val ((s.sub pk.2).generation + 1) false s.response.epoch)
            (BitVec.ofNat 32 (pk.1.trib.val * 0x2000 + pk.1.page.toNat * 0x400 + pk.1.slot * 0x10))
            (BitVec.ofNat 8 pk.1.length)

theorem filter_isRead_of_allOwnWrites {ws} (h : allOwnWrites ws) : ws.filter MRequest.isRead = [] := by
  rw [List.filter_eq_nil_iff]; intro q hq
  obtain ⟨a, d, rfl⟩ := h q hq; simp [ownWrite, MRequest.isRead]

/-- Reports add no read to the M-side queue. -/
theorem Reported.filter_isRead {s t : State} (h : Reported s t) :
    t.mQueue.filter MRequest.isRead = s.mQueue.filter MRequest.isRead := by
  obtain ⟨ws, hw, hq⟩ := h.mQueue; rw [hq, List.filter_append, filter_isRead_of_allOwnWrites hw, List.append_nil]

theorem State.freeSubReads_eq (s : State) : s.freeSubReads = (State.freeSubs s).length := by
  unfold State.freeSubReads countTable State.freeSubs
  rw [← List.countP_eq_length_filter]
  have : s.translation.subReads.toList = (List.finRange 64).map fun k => s.sub k := by
    apply List.ext_getElem <;> simp [State.sub]
  rw [this, List.countP_map]; rfl

/-- All that the sub-read of one piece does (R102). -/
theorem State.issuePiece_spec (s : State) (i c) (p : Piece) (k : Fin 64) (rest)
    (hf : State.freeSubs s = k :: rest) :
   let t := s.issuePiece i c p
   State.freeSubs t = rest ∧ t.sub k = State.pieceEntry s i c p k ∧ (∀ l, l ≠ k → t.sub l = s.sub l) ∧
   (∀ u, t.trib u = { s.trib u with inFlight := (s.trib u).inFlight + if p.trib = u then 1 else 0 }) ∧
   t.mQueue.filter MRequest.isRead = s.mQueue.filter MRequest.isRead ++ [State.pieceRead s (p, k)] ∧
       t.forwardedWrites = s.forwardedWrites ∧
   t.response = s.response ∧ t.processor = s.processor ∧ t.carriers = s.carriers ∧ t.change = s.change ∧
       t.outputs = s.outputs ∧ t.pending = s.pending := by
  intro t
  have hl : lowest? (fun e : SubRead => e.state = .free) s.translation.subReads = some k := by
    unfold lowest?
    rw [← List.head?_filter]
    show (State.freeSubs s).head? = _
    rw [hf]; rfl
  have ha : s.allocate i p.first p.length (some p.trib) (some c)
      (slotAddress p.trib p.page p.slot) .own = (s.setSub k
      (State.pieceEntry s i c p k)).enqueue [State.pieceRead s (p,k)] := by
    unfold State.allocate; rw [hl]; rfl
  have ht : t = (State.setTrib ((s.setSub k (State.pieceEntry s i c p k)).enqueue [State.pieceRead s
      (p,k)]) p.trib { s.trib p.trib with inFlight := (s.trib p.trib).inFlight + 1 }).report ⟨.subReads, 1,
      some c, some p.trib⟩ := by
    show s.issuePiece i c p = _
    unfold State.issuePiece; rw [ha]; simp
  have hr := report_reported (State.setTrib ((s.setSub k
      (State.pieceEntry s i c p k)).enqueue [State.pieceRead s (p,k)]) p.trib { s.trib p.trib with inFlight :=
      (s.trib p.trib).inFlight + 1 }) ⟨.subReads, 1, some c, some p.trib⟩
  rw [← ht] at hr
  have h1 : t.sub k = State.pieceEntry s i c p k := by rw [hr.sub]; simp
  have h2 : ∀ l, l ≠ k → t.sub l = s.sub l := by
    intro l h; rw [hr.sub]; simp [State.sub_setSub_ne _ _ _ _ h]
  have hnd : (State.freeSubs s).Nodup := (List.nodup_finRange 64).filter _
  refine ⟨?_, h1, h2, ?_, ?_, ?_, ?_, ?_, ?_, ?_, ?_, ?_⟩
  · have : State.freeSubs t = (State.freeSubs s).filter (· ≠ k) := by
      unfold State.freeSubs; rw [List.filter_filter]
      apply List.filter_congr
      intro l _
      by_cases h : l = k
      · subst h; simp [h1, State.pieceEntry]
      · simp [h2 l h, h]
    rw [this, hf]
    rw [hf, List.nodup_cons] at hnd
    simp only [ne_eq, List.filter_cons, decide_not, decide_true, Bool.not_true]
    simp
    intro a ha he; exact hnd.1 (he ▸ ha)
  · intro u; rw [hr.trib]
    by_cases h : p.trib = u
    · subst h; simp
    · rw [State.trib_setTrib_ne _ _ _ _ (Ne.symm h), if_neg h]; rfl
  · rw [Reported.filter_isRead hr]; simp [MRequest.isRead, State.pieceRead]
  · rw [hr.forwardedWrites]; simp [State.forwardedWrites, State.pieceRead, MRequest.isForwardedWrite]
  · rw [hr.response]; rfl
  · rw [hr.processor]; rfl
  · rw [hr.carriers]; rfl
  · rw [hr.change]; rfl
  · rw [hr.outputs]; rfl
  · rw [hr.pending]; rfl

/-- All that the sub-reads of the pieces of a read do: they take the lowest FREE entries in order (R96, R102). -/
theorem State.issuePieces_spec (ps : List Piece) (i c) : ∀ (s : State)
    (hle : ps.length ≤ (State.freeSubs s).length),
   let t := ps.foldl (fun s p => s.issuePiece i c p) s
   (∀ n (hn : n < ps.length) (hf : n < (State.freeSubs s).length),
       t.sub (State.freeSubs s)[n] = State.pieceEntry s i c ps[n] (State.freeSubs s)[n]) ∧
   (∀ k, k ∉ (State.freeSubs s).take ps.length → t.sub k = s.sub k) ∧
   (∀ u, t.trib u = { s.trib u with inFlight := (s.trib u).inFlight + ps.countP fun p => p.trib == u }) ∧
   t.mQueue.filter MRequest.isRead = s.mQueue.filter MRequest.isRead ++ (List.zip ps (State.freeSubs s)).map
       (State.pieceRead s) ∧ t.forwardedWrites = s.forwardedWrites ∧
   t.response = s.response ∧ t.processor = s.processor ∧ t.carriers = s.carriers ∧ t.change = s.change ∧
       t.outputs = s.outputs ∧ t.pending = s.pending := by
  induction ps with
  | nil => intro s _; simp
  | cons p ps ih =>
    intro s hle t
    obtain ⟨k, rest, hf⟩ : ∃ k rest, State.freeSubs s = k :: rest := by
      cases h : State.freeSubs s with
      | nil => rw [h] at hle; simp at hle
      | cons k r => exact ⟨k, r, rfl⟩
    obtain ⟨g0, g1, g2, g3, g4, g5, g6, g7, g8, g9, g10, g11⟩ := State.issuePiece_spec s i c p k rest hf
    have hnd : (State.freeSubs s).Nodup := (List.nodup_finRange 64).filter _
    rw [hf, List.nodup_cons] at hnd
    have hle' : ps.length ≤ (State.freeSubs (s.issuePiece i c p)).length := by
      rw [g0]; rw [hf] at hle; simpa using hle
    obtain ⟨i1, i2, i3, i4, i5, i6, i7, i8, i9, i10, i11⟩ := ih (s.issuePiece i c p) hle'
    have ht : t = ps.foldl (fun s p => s.issuePiece i c p) (s.issuePiece i c p) := rfl
    clear_value t
    rw [← ht] at i1 i2 i3 i4 i5 i6 i7 i8 i9 i10 i11
    simp only [g0] at i1 i2 i4
    simp only [hf]
    refine ⟨?_, ?_, ?_, ?_, i5.trans g5, i6.trans g6, i7.trans g7, i8.trans g8, i9.trans g9, i10.trans g10,
        i11.trans g11⟩
    · intro n hn hf'
      cases n with
      | zero =>
        simp only [List.getElem_cons_zero]
        rw [i2 k (fun h => hnd.1 (List.mem_of_mem_take h)), g1]
      | succ n =>
        simp only [List.getElem_cons_succ]
        have hn' : n < ps.length := by simpa using hn
        have hr' : n < rest.length := by simpa using hf'
        rw [i1 n hn' hr']
        have hne : rest[n] ≠ k := fun h => hnd.1 (h ▸ List.getElem_mem _)
        unfold State.pieceEntry; rw [g2 _ hne, g6, g7]
    · intro l hl
      rw [List.length_cons, List.take_succ_cons, List.mem_cons, not_or] at hl
      rw [i2 l hl.2, g2 l hl.1]
    · intro u; rw [i3, g3]; simp only [List.countP_cons]
      congr 1
      by_cases h : p.trib = u <;> simp [h] <;> omega
    · have hh : List.map (State.pieceRead (s.issuePiece i c p)) (ps.zip rest) = List.map (State.pieceRead s)
        (ps.zip rest) := by
        apply List.map_congr_left
        rintro ⟨q, l⟩ hq
        have hl : l ∈ rest := (List.of_mem_zip hq).2
        have hne : l ≠ k := fun h => hnd.1 (h ▸ hl)
        unfold State.pieceRead; simp only; rw [g2 l hne, g6]
      rw [i4, g4, hh, List.append_assoc]
      rfl

theorem State.issuePiece_lists (s : State)
    (i c p) : (s.issuePiece i c p).translation.parents = s.translation.parents ∧
    (s.issuePiece i c p).translation.lists = s.translation.lists ∧
    (s.issuePiece i c p).translation.ready = s.translation.ready ∧ (s.issuePiece i c p).pending = s.pending := by
  unfold State.issuePiece State.allocate
  dsimp only
  split <;> simp

/-- No sub-read touches a parent entry. -/
theorem State.issuePieces_lists (l : List Piece) (s : State)
    (i c) : (l.foldl (fun s p => s.issuePiece i c p) s).translation.parents = s.translation.parents ∧
    (l.foldl (fun s p => s.issuePiece i c p) s).pending = s.pending := by
  induction l generalizing s with
  | nil => exact ⟨rfl, rfl⟩
  | cons a l ih =>
    rw [List.foldl_cons]
    obtain ⟨h1, h2⟩ := ih (s.issuePiece i c a)
    obtain ⟨g1, _, _, g2⟩ := State.issuePiece_lists s i c a
    exact ⟨h1.trans g1, h2.trans g2⟩

theorem State.issuePiece_keeps (s : State) (i c p) : (s.issuePiece i c p).carriers = s.carriers ∧
    (s.issuePiece i c p).change = s.change ∧ (s.issuePiece i c p).processor = s.processor := by
  unfold State.issuePiece State.allocate
  dsimp only
  split <;> simp

/-- No acceptance touches a carrier, the pending change or the command processor. -/
theorem State.acceptRead_keeps (s : State) (i) (r : URead) : (s.acceptRead i r).carriers = s.carriers ∧
    (s.acceptRead i r).change = s.change ∧ (s.acceptRead i r).processor = s.processor := by
  have hop : ∀ cls c w st n, (s.openParent i r cls c w st n).carriers = s.carriers ∧
      (s.openParent i r cls c w st n).change = s.change ∧
      (s.openParent i r cls c w st n).processor = s.processor := by
    intros; exact ⟨rfl, rfl, rfl⟩
  unfold State.acceptRead
  split
  · unfold State.acceptTranslated; dsimp only
    have hfold : ∀ (l : List Piece) (w : State),
        (l.foldl (fun s p => s.issuePiece i (windowCarrier r.address) p) w).carriers = w.carriers ∧
        (l.foldl (fun s p => s.issuePiece i (windowCarrier r.address) p) w).change = w.change ∧
        (l.foldl (fun s p => s.issuePiece i (windowCarrier r.address) p) w).processor = w.processor := by
      intro l; induction l with
      | nil => intro w; exact ⟨rfl, rfl, rfl⟩
      | cons a l ih =>
        intro w; rw [List.foldl_cons]
        obtain ⟨h1, h2, h3⟩ := ih (w.issuePiece i (windowCarrier r.address) a)
        obtain ⟨g1, g2, g3⟩ := State.issuePiece_keeps w i (windowCarrier r.address) a
        exact ⟨h1.trans g1, h2.trans g2, h3.trans g3⟩
    obtain ⟨h1, h2, h3⟩ := hfold (cutPieces 0 (s.wordKinds r)) _
    rw [h1, h2, h3]
    have := foldl_report_reported
    refine ⟨?_, ?_, ?_⟩
    · exact ((foldl_report_reported _ _).carriers)
    · exact ((foldl_report_reported _ _).change)
    · exact ((foldl_report_reported _ _).processor)
  · exact ⟨rfl, rfl, rfl⟩
  · unfold State.acceptOffCarrier; simp; exact ⟨rfl, rfl, rfl⟩
  · unfold State.acceptMalformed; simp; exact ⟨rfl, rfl, rfl⟩
  · unfold State.acceptPass State.allocate; dsimp only; split <;> simp <;> exact ⟨rfl, rfl, rfl⟩

/-- The parent entry of an accepted read, of whatever class, is the one it took. -/
theorem State.acceptRead_parent (s : State) (i : Fin 32) (r : URead) : ∃ cls c words status n,
    ((s.acceptRead i r).parent i = (s.openParent i r cls c words status n).parent i) ∧
    (s.acceptRead i r).pending = s.pending := by
  unfold State.acceptRead
  split
  · unfold State.acceptTranslated; dsimp only
    refine ⟨.translated, some (windowCarrier r.address), (s.wordKinds r).map s.fillOf,
        if ((s.wordKinds r).filterMap WordKind.alarmTrib?).isEmpty then .ok else .alarm,
        (cutPieces 0 (s.wordKinds r)).length, ?_, ?_⟩
    rotate_left
    · rw [(State.issuePieces_lists _ _ _ _).2, (foldl_report_reported _ _).pending]; rfl
    · unfold State.parent; rw [(State.issuePieces_lists _ _ _ _).1, (foldl_report_reported _ _).translation]
  · exact ⟨_, _, _, _, _, rfl, rfl⟩
  · unfold State.acceptOffCarrier; dsimp only
    refine ⟨_, _, _, _, _, by rw [State.report_parent, State.report_parent], by simp; rfl⟩
  · unfold State.acceptMalformed; dsimp only
    refine ⟨_, _, _, _, _, by rw [State.raise_parent], by simp; rfl⟩
  · unfold State.acceptPass State.allocate; dsimp only
    refine ⟨.pass, none, if r.wellFormed then List.replicate r.length.toNat none else [], .ok, 1, ?_, ?_⟩
    rotate_left
    · split <;> simp <;> rfl
    · rw [State.report_parent]; split <;> simp

end Sys2Proof.Machine
end

