-- ==== Sys2Proof/Laws/Cycle.lean ====
section
/-! SUPPORT. All that a cycle start can do: what the evaluations, steps 1 and 2 and the application of a change keep, when ALARM applies, and the state an offered read is classed in. -/

namespace Sys2Proof.Machine

theorem Tributary.placementIn_eq_none {tr : Tributary} {c : CarrierId} :
    tr.placementIn c = none ↔ ∀ p ∈ tr.placements, p.carrier ≠ c := by
  simp [Tributary.placementIn, List.find?_eq_none]

/-- The placement of a tributary in a carrier is the only one there (R2). -/
theorem Tributary.placementIn_eq_some {tr : Tributary} (hn : (tr.placements.map (·.carrier)).Nodup) {q :
    Placement} {c} (hq : q ∈ tr.placements) (hc : q.carrier = c) : tr.placementIn c = some q := by
  unfold Tributary.placementIn
  generalize tr.placements = l at hn hq
  induction l with
  | nil => cases hq
  | cons a l ih =>
    rw [List.map_cons, List.nodup_cons] at hn
    rw [List.find?_cons]
    rcases List.mem_cons.1 hq with rfl | hq
    · simp [hc]
    · have : a.carrier ≠ c := by
        rintro h; apply hn.1; rw [h, ← hc]; exact List.mem_map_of_mem hq
      simp only [this, decide_false]
      exact ih hn.2 hq

/-- ALARM applies to a SILENT tributary and to a restart-pending placement (R66). -/
theorem Tributary.alarmIn_iff {tr : Tributary} (hn : (tr.placements.map (·.carrier)).Nodup)
    (c) : tr.alarmIn c = true ↔ tr.state = .silent ∨ ∃ q ∈ tr.placements, q.carrier = c ∧
    q.restartPending = true := by
  unfold Tributary.alarmIn
  rw [Bool.or_eq_true, decide_eq_true_eq]
  apply or_congr Iff.rfl
  constructor
  · intro h
    cases hp : tr.placementIn c with
    | none => rw [hp] at h; cases h
    | some q =>
      rw [hp] at h
      exact ⟨q, List.mem_of_find?_eq_some hp, by simpa using List.find?_some hp, h⟩
  · rintro ⟨q, hq, hc, hr⟩
    rw [Tributary.placementIn_eq_some hn hq hc]; exact hr

theorem evaluation_carrier (l tr p) : (evaluation l tr p).placement.carrier = p.carrier := by
  unfold evaluation
  split
  · rfl
  · split
    · rfl
    · split
      · rfl
      · split <;> rfl

/-- An evaluation moves no placement to another carrier. -/
theorem Tributary.evaluated_carriers (tr : Tributary) (c) (e : Evaluation)
    (he : e.placement.carrier = c) :
    ((tr.evaluated c e).placements.map (·.carrier)) = tr.placements.map (·.carrier) := by
  unfold Tributary.evaluated
  simp only [List.map_map]
  apply List.map_congr_left
  intro p _
  simp only [Function.comp]
  split
  · rename_i h; rw [he, h]
  · rfl

/-- What an evaluation keeps: all but the tributary records, the indication bytes and reports. -/
structure EvaluationKeeps (s t : State) : Prop where
  change : t.change = s.change
  translation : t.translation = s.translation
  response : t.response = s.response
  processor : t.processor = s.processor
  channel : t.channel = s.channel
  outputs : t.outputs = s.outputs
  pending : t.pending = s.pending
  fw : t.forwardedWrites = s.forwardedWrites
  carrier : ∀ d, t.carrier d = { s.carrier d with indications := (t.carrier d).indications }
  carriers : ∀ u, ((t.trib u).placements.map (·.carrier)) = ((s.trib u).placements.map (·.carrier))

theorem EvaluationKeeps.refl (s : State) : EvaluationKeeps s s := ⟨rfl, rfl, rfl, rfl, rfl, rfl, rfl, rfl,
    fun _ => rfl, fun _ => rfl⟩

theorem EvaluationKeeps.trans {s t u : State} (h : EvaluationKeeps s t)
    (h' : EvaluationKeeps t u) : EvaluationKeeps s u :=
  ⟨h'.change.trans h.change, h'.translation.trans h.translation, h'.response.trans h.response,
      h'.processor.trans h.processor, h'.channel.trans h.channel, h'.outputs.trans h.outputs,
      h'.pending.trans h.pending, h'.fw.trans h.fw,
   fun d => by have := h'.carrier d; rw [h.carrier d] at this; exact this,
       fun u => (h'.carriers u).trans (h.carriers u)⟩

theorem EvaluationKeeps.of_reported {s t : State} (h : Reported s t) : EvaluationKeeps s t :=
  ⟨h.change, h.translation, h.response, h.processor, h.channel, h.outputs, h.pending, h.forwardedWrites,
      fun d => by rw [h.carrier], fun u => by rw [h.trib]⟩

theorem State.alarmEverywhere_keeps (s : State) (t) : EvaluationKeeps s (s.alarmEverywhere t) := by
  refine ⟨rfl, rfl, rfl, rfl, rfl, rfl, rfl, rfl, fun d => ?_, fun u => ?_⟩
  · simp [alarmPositions]
  · simp

theorem State.reportEvaluation_keeps (s : State) (t c tr e) : EvaluationKeeps s (s.reportEvaluation t c tr e) := by
  unfold State.reportEvaluation
  have h1 : EvaluationKeeps s (if e.outcome = .silenced
    then (s.alarmEverywhere t).raise (.tribSilent t c tr.iw e.placement.er e.placement.quiet)
    else s) := by
    split
    · exact (State.alarmEverywhere_keeps s t).trans (.of_reported (raise_reported _ _))
    · exact .refl s
  generalize (if e.outcome = .silenced
    then (s.alarmEverywhere t).raise (.tribSilent t c tr.iw e.placement.er e.placement.quiet)
    else s) = s1 at h1 ⊢
  dsimp only
  refine h1.trans ?_
  cases e.slip with
  | none =>
    cases e.moved with
    | none => exact .refl _
    | some d => exact .of_reported (raise_reported _ _)
  | some sl =>
    cases e.moved with
    | none => exact .of_reported ((raise_reported _ _).trans (report_reported _ _))
    | some d => exact .of_reported (((raise_reported _ _).trans (report_reported _ _)).trans (raise_reported _ _))

theorem State.evaluate_keeps (s : State) (c t) : EvaluationKeeps s (s.evaluate c t) := by
  unfold State.evaluate
  cases he : s.evaluationOf c t with
  | none => exact .refl s
  | some e =>
    dsimp only
    have hset : EvaluationKeeps s (s.setTrib t ((s.trib t).evaluated c e)) →
        EvaluationKeeps s (State.reportEvaluation (s.setTrib t ((s.trib t).evaluated c e)) t c (s.trib t) e) :=
        fun h => h.trans (State.reportEvaluation_keeps _ _ _ _ _)
    refine hset ⟨by simp, by simp, by simp, by simp, by simp, by simp, by simp, by simp [State.forwardedWrites],
        by simp, fun u => ?_⟩
    by_cases hu : u = t
    · subst hu
      rw [State.trib_setTrib_self]
      apply Tributary.evaluated_carriers
      unfold State.evaluationOf at he
      cases hp : (s.trib u).placementIn c with
      | none => rw [hp] at he; cases he
      | some p =>
        rw [hp] at he; cases he
        rw [evaluation_carrier]
        have := List.find?_some hp
        simpa using this
    · rw [State.trib_setTrib_ne _ _ _ _ hu]

/-- Step 4 keeps all but the tributary records, the indication bytes and reports (R62, R74). -/
theorem State.evaluateAll_keeps (s : State) (c) : EvaluationKeeps s (s.evaluateAll c) := by
  unfold State.evaluateAll
  dsimp only
  generalize s.evaluationOrder c = l
  have h0 : ∀ d, EvaluationKeeps s { s with draws := d } := by
    intro d; constructor <;> simp [State.forwardedWrites, State.carrier, State.trib]
  refine (h0 (drawn (s.raisingIn c).length s.draws)).trans ?_
  generalize ({ s with draws := drawn (s.raisingIn c).length s.draws } : State) = w
  induction l generalizing w with
  | nil => exact .refl _
  | cons t l ih => exact (State.evaluate_keeps _ _ _).trans (ih _)

/-- Step 5 keeps all but the indication bytes (R66). -/
theorem State.recomputeIndications_keeps (s : State)
    (c s0 s4 ch) : EvaluationKeeps s (s.recomputeIndications c s0 s4 ch) := by
  unfold State.recomputeIndications
  refine ⟨rfl, rfl, rfl, rfl, rfl, rfl, rfl, rfl, fun d => ?_, fun _ => rfl⟩
  by_cases hd : d = c
  · subst hd; simp
  · rw [State.carrier_setCarrier_ne _ _ _ _ hd]

/-- All that steps 1 and 2 do (R62, R63). -/
theorem State.countCycle_takePage_spec (s : State) (c : CarrierId) (p : BitVec 3) :
   let t := (s.takePage c p).countCycle c
   t.change = s.change ∧ t.translation = s.translation ∧ t.response = s.response ∧ t.processor = s.processor ∧
       t.channel = s.channel ∧ t.outputs = s.outputs ∧ t.pending = s.pending ∧
       t.forwardedWrites = s.forwardedWrites ∧ t.tributaries = s.tributaries ∧
   t.carrier c = { s.carrier c with page := some p, cycles := (s.carrier c).cycles + 1 } ∧
       ∀ d, d ≠ c → t.carrier d = s.carrier d := by
  intro t
  have h1 : Reported (s.setCarrier c { s.carrier c with page := some p }) (s.takePage c p) := by
    unfold State.takePage; dsimp only
    split
    · split
      · exact .refl _
      · exact raise_reported _ _
    · exact .refl _
  have h2 : Reported ((s.takePage c p).setCarrier c { (s.takePage c p).carrier c with cycles :=
      ((s.takePage c p).carrier c).cycles + 1 }) t := report_reported _ _
  have hc : (s.takePage c p).carrier c = { s.carrier c with page := some p } := by rw [h1.carrier]; simp
  refine ⟨?_, ?_, ?_, ?_, ?_, ?_, ?_, ?_, ?_, ?_, ?_⟩
  · rw [h2.change]; exact h1.change
  · rw [h2.translation]; exact h1.translation
  · rw [h2.response]; exact h1.response
  · rw [h2.processor]; exact h1.processor
  · rw [h2.channel]; exact h1.channel
  · rw [h2.outputs]; exact h1.outputs
  · rw [h2.pending]; exact h1.pending
  · rw [h2.forwardedWrites]; exact h1.forwardedWrites
  · rw [h2.tributaries]; exact h1.tributaries
  · rw [h2.carrier, State.carrier_setCarrier_self, hc]
  · intro d hd; rw [h2.carrier, State.carrier_setCarrier_ne _ _ _ _ hd, h1.carrier,
      State.carrier_setCarrier_ne _ _ _ _ hd]

/-- What an evaluation and a map change keep of a tributary's record. -/
structure Tributary.SameOwn (a b : Tributary) : Prop where
  width : b.width = a.width
  targetLag : b.targetLag = a.targetLag
  fill : b.fill = a.fill
  iw : b.iw = a.iw
  jumps : b.jumps = a.jumps
  strays : b.strays = a.strays
  inFlight : b.inFlight = a.inFlight

theorem Tributary.SameOwn.refl (a : Tributary) : a.SameOwn a := ⟨rfl, rfl, rfl, rfl, rfl, rfl, rfl⟩

theorem Tributary.SameOwn.trans {a b c : Tributary} (h : a.SameOwn b) (h' : b.SameOwn c) : a.SameOwn c :=
  ⟨h'.width.trans h.width, h'.targetLag.trans h.targetLag, h'.fill.trans h.fill, h'.iw.trans h.iw,
    h'.jumps.trans h.jumps, h'.strays.trans h.strays, h'.inFlight.trans h.inFlight⟩

theorem Tributary.applied_sameOwn (tr : Tributary) (kind : ChangeKind) (c : CarrierId) (at_ : ApplyAt) :
    tr.SameOwn (tr.applied kind c at_) := by
  cases kind <;> exact ⟨rfl, rfl, rfl, rfl, rfl, rfl, rfl⟩

theorem Tributary.evaluated_sameOwn (tr : Tributary) (c : CarrierId) (e : Evaluation) : tr.SameOwn (tr.evaluated c e) :=
  ⟨rfl, rfl, rfl, rfl, rfl, rfl, rfl⟩

theorem State.reportEvaluation_tributaries (s : State) (t : TribId) (c : CarrierId) (tr : Tributary) (e : Evaluation) :
    (s.reportEvaluation t c tr e).tributaries = s.tributaries := by
  unfold State.reportEvaluation
  cases e.slip <;> cases e.moved <;> simp only [] <;> split <;> simp [State.alarmEverywhere]

theorem State.evaluate_sameOwn (s : State) (c : CarrierId) (t x : TribId) :
    (s.trib x).SameOwn ((s.evaluate c t).trib x) := by
  unfold State.evaluate
  split
  · rename_i e _
    have hx : ∀ w : State, (w.reportEvaluation t c (s.trib t) e).trib x = w.trib x := fun w => by
      unfold State.trib; rw [State.reportEvaluation_tributaries]
    rw [hx]
    by_cases h : x = t
    · subst h; rw [State.trib_setTrib_self]; exact Tributary.evaluated_sameOwn _ _ _
    · rw [State.trib_setTrib_ne _ _ _ _ h]; exact .refl _
  · exact .refl _

theorem State.evaluateAll_sameOwn (s : State) (c : CarrierId) (x : TribId) :
    (s.trib x).SameOwn ((s.evaluateAll c).trib x) := by
  have fold : ∀ (l : List TribId) (w : State), (w.trib x).SameOwn ((l.foldl (fun s t => s.evaluate c t) w).trib x) := by
    intro l
    induction l with
    | nil => intro w; exact .refl _
    | cons t l ih => intro w; exact (State.evaluate_sameOwn w c t x).trans (ih _)
  have h := fold (s.evaluationOrder c) { s with draws := drawn (s.raisingIn c).length s.draws }
  have h0 : ({ s with draws := drawn (s.raisingIn c).length s.draws } : State).trib x = s.trib x := by unfold State.trib; rfl
  rw [h0] at h
  exact h

theorem State.recomputeIndications_trib (s : State) (c : CarrierId) (s0 s4 : State) (ch : Option PendingChange) (x : TribId) :
    (s.recomputeIndications c s0 s4 ch).trib x = s.trib x := by
  unfold State.trib; rfl

/-- What a cycle start keeps: the translation unit, the counts of the response unit, the limits, the channel, the outputs,
the queue of commands, which carriers are ON, and what no evaluation and no change writes of a tributary (R62). -/
structure CycleKeeps (s t : State) : Prop where
  translation : t.translation = s.translation
  microseconds : t.response.microseconds = s.response.microseconds
  epoch : t.response.epoch = s.response.epoch
  limits : t.processor.limits = s.processor.limits
  channel : t.channel = s.channel
  outputs : t.outputs = s.outputs
  pending : t.pending = s.pending
  forwardedWrites : t.forwardedWrites = s.forwardedWrites
  on : ∀ d, (t.carrier d).on = (s.carrier d).on
  trib : ∀ x, (s.trib x).SameOwn (t.trib x)

theorem CycleKeeps.refl (s : State) : CycleKeeps s s :=
  ⟨rfl, rfl, rfl, rfl, rfl, rfl, rfl, rfl, fun _ => rfl, fun _ => .refl _⟩

theorem CycleKeeps.trans {s t u : State} (h : CycleKeeps s t) (h' : CycleKeeps t u) : CycleKeeps s u :=
  ⟨h'.translation.trans h.translation, h'.microseconds.trans h.microseconds, h'.epoch.trans h.epoch,
    h'.limits.trans h.limits, h'.channel.trans h.channel, h'.outputs.trans h.outputs, h'.pending.trans h.pending,
    h'.forwardedWrites.trans h.forwardedWrites, fun d => (h'.on d).trans (h.on d), fun x => (h.trib x).trans (h'.trib x)⟩

theorem CycleKeeps.of_evaluationKeeps {s t : State} (h : EvaluationKeeps s t)
    (ht : ∀ x, (s.trib x).SameOwn (t.trib x)) : CycleKeeps s t :=
  ⟨h.translation, by rw [h.response], by rw [h.response], by rw [h.processor], h.channel, h.outputs, h.pending, h.fw,
    fun d => by rw [h.carrier d], ht⟩

theorem completionWrites_own (done : BitVec 16) (grains : Option (List Position)) (code : Completion) (data : List Byte) :
    allOwnWrites (completionWrites done grains code data) := by
  intro r hr
  unfold completionWrites at hr
  simp only [List.mem_append, List.mem_mapIdx, List.mem_singleton] at hr
  obtain (hr | ⟨_, _, rfl⟩) | rfl := hr
  · cases grains with
    | none => cases hr
    | some ps =>
      simp only [List.mem_mapIdx] at hr
      obtain ⟨_, _, rfl⟩ := hr
      exact ⟨_, _, rfl⟩
  · exact ⟨_, _, rfl⟩
  · exact ⟨_, _, rfl⟩

/-- A completion forwards no write (R143, R151). -/
theorem State.completeWith_forwardedWrites (s : State) (grains : Option (List Position)) (code : Completion)
    (data : List Byte) : (s.completeWith grains code data).forwardedWrites = s.forwardedWrites := by
  unfold State.forwardedWrites
  rw [State.completeWith_mQueue, List.countP_append, List.countP_append,
    countP_forwarded_of_allOwnWrites (completionWrites_own _ _ _ _)]
  split <;> rfl

/-- The tributary records after an application (R20, R21, R22). -/
theorem State.applyChange_trib (s : State) (ch : PendingChange) (a : ApplyAt) (x : TribId) :
    (s.applyChange ch a).trib x =
      if x = ch.trib then (s.trib ch.trib).applied ch.kind ch.carrier a else s.trib x := by
  have ht : (s.applyChange ch a).tributaries = (s.setTrib ch.trib ((s.trib ch.trib).applied ch.kind ch.carrier a)).tributaries :=
    (State.completeWith_tributaries ..).trans rfl
  rw [State.trib, ht]
  change (s.setTrib ch.trib _).trib x = _
  split
  · rename_i h; subst h; exact State.trib_setTrib_self ..
  · rename_i h; exact State.trib_setTrib_ne _ _ _ _ h

/-- The carrier records after an application (R19, R23). -/
theorem State.applyChange_carrier (s : State) (ch : PendingChange) (a : ApplyAt) (d : CarrierId) :
    (s.applyChange ch a).carrier d =
      if d = ch.carrier then
        let r := s.carrier ch.carrier
        let m := changedMap ch.kind ch.trib ch.positions r.map
        match a with
        | .cycleStart => r.applied m
        | .expiry => { r.applied m with
            indications := expiryIndications ch ((s.trib ch.trib).applied ch.kind ch.carrier a) r m }
      else s.carrier d := by
  unfold State.applyChange
  rw [State.completeWith_carrier]
  unfold State.rewriteMap
  have self : ∀ (x : State) (r : Carrier) (q), ({ x.setCarrier ch.carrier r with change := q } : State).carrier ch.carrier = r :=
    fun x r q => State.carrier_setCarrier_self ..
  have other : ∀ (x : State) (r : Carrier) (q), d ≠ ch.carrier →
      ({ x.setCarrier ch.carrier r with change := q } : State).carrier d = x.carrier d :=
    fun x r q h => State.carrier_setCarrier_ne _ _ _ _ h
  by_cases hd : d = ch.carrier
  · subst hd
    rw [if_pos rfl]
    exact (self ..).trans (by cases a <;> rfl)
  · rw [if_neg hd]
    exact (other _ _ _ hd).trans rfl

/-- The application of a change keeps what a cycle start keeps (R19). -/
theorem State.applyChange_keeps (s : State) (ch : PendingChange) (a : ApplyAt) : CycleKeeps s (s.applyChange ch a) where
  translation := (State.completeWith_translation ..).trans rfl
  microseconds := (State.completeWith_microseconds ..).trans rfl
  epoch := (State.completeWith_epoch ..).trans rfl
  limits := (State.completeWith_limits ..).trans rfl
  channel := (State.completeWith_channel ..).trans rfl
  outputs := (State.completeWith_outputs ..).trans rfl
  pending := (State.completeWith_pending ..).trans rfl
  forwardedWrites := (State.completeWith_forwardedWrites ..).trans rfl
  on d := by
    rw [State.applyChange_carrier]
    split
    · rename_i h; subst h; cases a <;> rfl
    · rfl
  trib x := by
    rw [State.applyChange_trib]
    split
    · rename_i h; subst h; exact Tributary.applied_sameOwn ..
    · exact .refl _

/-- All that a cycle start keeps (R62). -/
theorem State.cycleStart_keeps (s : State) (c : CarrierId) (p : BitVec 3) : CycleKeeps s (s.cycleStart c p) := by
  obtain ⟨_, h2, h3, h4, h5, h6, h7, h8, h9, h10, h11⟩ := State.countCycle_takePage_spec s c p
  have h0 : CycleKeeps s ((s.takePage c p).countCycle c) :=
    ⟨h2, by rw [h3], by rw [h3], by rw [h4], h5, h6, h7, h8, fun d => by
      by_cases hd : d = c
      · subst hd; rw [h10]
      · rw [h11 d hd], fun x => by
      have hx : ((s.takePage c p).countCycle c).trib x = s.trib x := by unfold State.trib; rw [h9]
      rw [hx]; exact .refl _⟩
  unfold State.cycleStart
  dsimp only
  generalize (s.takePage c p).countCycle c = v at h0
  have h1 : ∀ (w : State) (q : Option PendingChange), CycleKeeps s w → CycleKeeps s ((w.evaluateAll c).recomputeIndications c v w q) := by
    intro w q hw
    have he : CycleKeeps w (w.evaluateAll c) :=
      .of_evaluationKeeps (State.evaluateAll_keeps w c) (State.evaluateAll_sameOwn w c)
    have hr : CycleKeeps (w.evaluateAll c) ((w.evaluateAll c).recomputeIndications c v w q) :=
      .of_evaluationKeeps (State.recomputeIndications_keeps ..) fun x => by
        rw [State.recomputeIndications_trib]; exact .refl _
    exact (hw.trans he).trans hr
  cases v.changeFor c with
  | none => exact h1 v none h0
  | some ch => exact h1 _ (some ch) (h0.trans (State.applyChange_keeps ..))

/-- All that an offered read's cycle start keeps (R61, R98 step 2). -/
theorem State.whenOffered_keeps (s : State) (r : URead) : CycleKeeps s (s.whenOffered r) := by
  unfold State.whenOffered
  split
  · exact State.cycleStart_keeps ..
  · exact .refl s

/-- A read's class does not change at its own cycle start (R92). -/
theorem State.classOf_whenOffered (s : State) (r : URead) : (s.whenOffered r).classOf r = s.classOf r := by
  unfold State.classOf; rw [(State.whenOffered_keeps s r).on]

/-- The FREE sub-read entries at an offer are those before any cycle start (R96). -/
theorem State.freeSubs_whenOffered (s : State) (r : URead) : (s.whenOffered r).freeSubs = s.freeSubs := by
  unfold State.freeSubs State.sub; rw [(State.whenOffered_keeps s r).translation]

/-- A read at a free head with a parent entry FREE: it takes any cycle start, and is accepted where the state after it has
entries enough, and held with its ACCEPT-WAITS where not (R98). -/
theorem State.offerRead_spec (s : State) (r : URead) (b : Bool) (i : Fin 32) (hi : s.freeParent? = some i) :
    s.offerRead r b =
      if (s.whenOffered r).subReadsNeeded r ≤ (s.whenOffered r).freeSubs.length then ((s.whenOffered r).acceptRead i r, true)
      else (if b then s.whenOffered r else (s.whenOffered r).waitReported r, false) := by
  unfold State.offerRead
  rw [hi]; dsimp only
  rw [State.withCycleStart_eq, State.freeSubReads_eq]
  have : (s.whenOffered r).holdRead r b = if b then s.whenOffered r else (s.whenOffered r).waitReported r := by
    unfold State.holdRead State.waitReported; simp only [inWindow_iff]
  rw [this]

/-- A change of another carrier stays pending (R17). -/
theorem State.changeFor_eq_none {s : State} {c} (h : ∀ ch, s.change = some ch →
    ch.carrier ≠ c) : s.changeFor c = none := by
  unfold State.changeFor
  cases hc : s.change with
  | none => rfl
  | some ch => dsimp only; rw [if_neg (h ch hc)]

end Sys2Proof.Machine
end

