-- ==== Sys2Proof/Laws/Operands.lean ====
section
/-! SUPPORT. The range tests of record fields: what each answers in range and out of it (R150). -/

namespace Sys2Proof.Machine

theorem toTrib?_of_ge {v : BitVec 16} (h : 1024 ≤ v.toNat) : toTrib? v = none := by
  rw [toTrib?, dif_neg (by omega)]

theorem toTrib?_of_val {v : BitVec 16} {t : TribId} (h : t.val = v.toNat) : toTrib? v = some t := by
  rw [toTrib?, dif_pos (h ▸ t.isLt)]
  simp [Fin.ext_iff, h]

theorem toTrib?_eq_some {v : BitVec 16} {t : TribId} : toTrib? v = some t ↔ t.val = v.toNat := by
  refine ⟨fun h => ?_, toTrib?_of_val⟩
  unfold toTrib? at h
  split at h
  · exact (Option.some.inj h) ▸ rfl
  · cases h

theorem toCarrier?_of_ge {v : Byte} (h : 16 ≤ v.toNat) : toCarrier? v = none := by
  rw [toCarrier?, dif_neg (by omega)]

theorem toCarrier?_of_val {v : Byte} {c : CarrierId} (h : c.val = v.toNat) : toCarrier? v = some c := by
  rw [toCarrier?, dif_pos (h ▸ c.isLt)]
  simp [Fin.ext_iff, h]

theorem toCarrier?_eq_some {v : Byte} {c : CarrierId} : toCarrier? v = some c ↔ c.val = v.toNat := by
  refine ⟨fun h => ?_, toCarrier?_of_val⟩
  unfold toCarrier? at h
  split at h
  · exact (Option.some.inj h) ▸ rfl
  · cases h

theorem toCounter?_of_ge {v : Byte} (h : 8 ≤ v.toNat) : toCounter? v = none := by
  rw [toCounter?, dif_neg (by omega)]

theorem toCounter?_of_val {v : Byte} {n : Fin 8} (h : n.val = v.toNat) : toCounter? v = some n := by
  rw [toCounter?, dif_pos (h ▸ n.isLt)]
  simp [Fin.ext_iff, h]

theorem toPosition?_eq_some {n : Nat} {p : Position} : toPosition? n = some p ↔ p.val = n := by
  unfold toPosition?
  split
  · simp [Fin.ext_iff, eq_comm]
  · rename_i h
    exact ⟨nofun, fun hp => absurd (hp ▸ p.isLt) h⟩

end Sys2Proof.Machine
end

