-- ==== Sys2Proof/Laws/Commands.lean ====
section
/-! SUPPORT. What the command rows share: the fetch that hands the record over, the listed positions, admission. -/

namespace Sys2Proof.Machine

/-- With the fetch outstanding a command row runs its command on the record (R148). -/
theorem State.underFetch_issued {s : State} (h : s.response.fetch.issued = true)
    (r f) : s.underFetch r f = f (s.beginCommand r) := by
  simp [State.underFetch, h]

theorem toPosition?_val (p : Position) : toPosition? p.val = some p := toPosition?_eq_some.2 rfl

theorem mapM_toPosition? (ps : List Position) (bs : List Byte) (h : ps.map (fun p => p.val) = bs.map BitVec.toNat) :
   (bs.mapM fun b => toPosition? b.toNat) = some ps := by
  induction bs generalizing ps with
  | nil => cases ps <;> simp_all
  | cons b bs ih =>
    cases ps with
    | nil => simp at h
    | cons p ps =>
      simp at h
      rw [List.mapM_cons, ih ps h.2, ← h.1, toPosition?_val]; rfl

/-- A list of distinct positions in range is the position list (R8). -/
theorem listedPositions?_eq_some {w : Nat} {grains : List Byte} {positions : List Position} (hl :
    positions.length = w)
   (h : positions.map (fun p => p.val) = (grains.take w).map BitVec.toNat) (hn : positions.Nodup) :
   listedPositions? w grains = some positions := by
  have hlen := congrArg List.length h
  simp at hlen
  have : padTo w grains = grains.take w := by
    unfold padTo
    have : w - grains.length = 0 := by omega
    simp [this]
  unfold listedPositions?
  rw [this, mapM_toPosition? _ _ h]
  simp [hn]

theorem State.settlePositions_eq_admit {s : State} {kind t c own pick scatter grains} {positions : List Position}
    (hp : (if pick then pick? (s.trib t).width scatter own (s.carrier c).map else listedPositions?
        (s.trib t).width grains) = some positions)
    (hfree : pick = false → ∀ p ∈ positions, isFree own (s.carrier c).map[p] = true)
    (hcost : readCost (changedMap kind t positions (s.carrier c).map) ≤ (s.carrier c).costLimit) :
    s.settlePositions kind t c own pick scatter grains = s.admitChange kind t c positions := by
  unfold State.settlePositions
  simp only [hp]
  rw [if_neg, if_neg (by omega)]
  cases pick <;> simp
  simpa using hfree

/-- Steps 5 to 7 pass positions that are free and within the cost limit (R7, R8). -/
theorem State.settlePositions_admits {s : State} {kind t c own pick scatter grains} {positions :
    List Position} {r : Record}
    (hp : (if pick then pick? (s.trib t).width scatter own (s.carrier c).map else listedPositions?
        (s.trib t).width grains) = some positions)
    (hfree : pick = false → ∀ p ∈ positions, isFree own (s.carrier c).map[p] = true)
    (hcost : readCost (changedMap kind t positions (s.carrier c).map) ≤ (s.carrier c).costLimit) :
    (s.beginCommand r).settlePositions kind t c own pick scatter grains =
        (s.beginCommand r).admitChange kind t c positions := by
  exact State.settlePositions_eq_admit hp hfree hcost

/-- All that admission does (R12, R16). -/
theorem State.admitChange_admits (s : State) (r kind t c positions) :
   Admits s ((s.beginCommand r).admitChange kind t c positions) r ⟨kind, t, c, positions,
       s.response.microseconds + BitVec.ofNat 32 (16 * s.processor.limits.applyLimit)⟩ := by
  refine ⟨rfl, rfl, ?_, ?_, rfl, ⟨rfl, rfl, rfl⟩, rfl, ⟨rfl, rfl, rfl, rfl, rfl, rfl⟩, rfl, rfl⟩
  · have : ((s.beginCommand r).admitChange kind t c positions).carrier c = {
      (s.beginCommand r).carrier c with pendingFlag := true } := by
      show State.carrier ((s.beginCommand r).setCarrier c _) c = _
      simp
    simpa using this
  · intro d hd
    show State.carrier ((s.beginCommand r).setCarrier c _) d = _
    simp [State.carrier_setCarrier_ne _ _ _ _ hd]

end Sys2Proof.Machine
end

