-- ==== Sys2Proof/Laws/Flags.lean ====
section
/-! SUPPORT. What the flag-like values come to: the notice line, saturating counts, the status of a parent. -/

namespace Sys2Proof.Machine

/-- The line is asserted exactly while a priority exceeds the threshold (R168). -/
theorem noticeLevel_iff (shadow : List Nat) (threshold : Nat) :
    noticeLevel shadow threshold = true ↔ ∃ p ∈ shadow, threshold < p := by
  simp [noticeLevel]

@[simp] theorem EventWriter.withNotice_notice (w : EventWriter) :
    w.withNotice.notice = noticeLevel w.shadow w.threshold := rfl
@[simp] theorem EventWriter.withNotice_written (w : EventWriter) : w.withNotice.written = w.written := rfl
@[simp] theorem EventWriter.withNotice_taken (w : EventWriter) : w.withNotice.taken = w.taken := rfl
@[simp] theorem EventWriter.withNotice_lost (w : EventWriter) : w.withNotice.lost = w.lost := rfl
@[simp] theorem EventWriter.withNotice_shadow (w : EventWriter) : w.withNotice.shadow = w.shadow := rfl
@[simp] theorem EventWriter.withNotice_kinds (w : EventWriter) : w.withNotice.kinds = w.kinds := rfl
@[simp] theorem EventWriter.withNotice_threshold (w : EventWriter) : w.withNotice.threshold = w.threshold := rfl

/-- A saturating count never falls, and stays at 65535 (R28). -/
theorem saturate_toNat (n : BitVec 16) : (saturate n).toNat = min 65535 (n.toNat + 1) := by
  unfold saturate
  split
  · rename_i h; subst h; rfl
  · rename_i h
    have : n.toNat ≠ 65535 := fun h' => h (BitVec.eq_of_toNat_eq h')
    have := n.isLt
    have h1 : (1 : BitVec 16).toNat = 1 := rfl
    rw [BitVec.toNat_add, h1]
    omega

/-- A status that is called for is reached (R125). -/
theorem Status.rise_error (st : Status) : st.rise .error = .error := by cases st <;> rfl

/-- LATE is reached from any status but ERROR, which stays (R119, R125). -/
theorem Status.rise_late (st : Status) : st.rise .late = if st = .error then .error else .late := by cases st <;> rfl

/-- The lost count never falls and never passes 255 (R165). -/
theorem raiseLost_le (n : Nat) (h : n ≤ 255) : n ≤ raiseLost n ∧ raiseLost n ≤ 255 := by
  unfold raiseLost; split <;> omega

end Sys2Proof.Machine
end

