-- ==== Sys2Proof/Laws/PerInstr.lean ====
section
/-! SUPPORT. Per-command lemmas about the commands as syntax: a well-formed request row is the row its request is classed in. -/

namespace Sys2Proof.Laws

/-- A well-formed command that presents an upstream request is the row that request is classed in, by its kind, its
address and, for the control words, its byte-enable flags (R133, R141). -/
def RequestClass.Statement (i : Instr) : Prop :=
  i.wellFormed = true → ∀ q, i.request? = some q → Machine.requestRow q = i

theorem RequestClass.hardwareReset : RequestClass.Statement (.hardwareReset) :=
  fun _ _ hq => by cases hq

theorem RequestClass.microsecondCountAdvance : RequestClass.Statement (.microsecondCountAdvance) :=
  fun _ _ hq => by cases hq

theorem RequestClass.tributaryRegionWrite (w : UWrite) : RequestClass.Statement (.tributaryRegionWrite w) :=
  fun h _ hq => eq_of_beq (Option.some.inj hq ▸ h)

theorem RequestClass.postWordWrite (w : UWrite) : RequestClass.Statement (.postWordWrite w) :=
  fun h _ hq => eq_of_beq (Option.some.inj hq ▸ h)

theorem RequestClass.takeWordWrite (w : UWrite) : RequestClass.Statement (.takeWordWrite w) :=
  fun h _ hq => eq_of_beq (Option.some.inj hq ▸ h)

theorem RequestClass.passWrite (w : UWrite) : RequestClass.Statement (.passWrite w) :=
  fun h _ hq => eq_of_beq (Option.some.inj hq ▸ h)

theorem RequestClass.strayWrite (w : UWrite) : RequestClass.Statement (.strayWrite w) :=
  fun h _ hq => eq_of_beq (Option.some.inj hq ▸ h)

theorem RequestClass.carrierWindowRead (r : URead) : RequestClass.Statement (.carrierWindowRead r) :=
  fun h _ hq => eq_of_beq (Option.some.inj hq ▸ h)

theorem RequestClass.passRead (r : URead) : RequestClass.Statement (.passRead r) :=
  fun h _ hq => eq_of_beq (Option.some.inj hq ▸ h)

theorem RequestClass.heldReadReoffer : RequestClass.Statement (.heldReadReoffer) :=
  fun _ _ hq => by cases hq

theorem RequestClass.heldWriteReoffer : RequestClass.Statement (.heldWriteReoffer) :=
  fun _ _ hq => by cases hq

theorem RequestClass.mSideRequestTaken : RequestClass.Statement (.mSideRequestTaken) :=
  fun _ _ hq => by cases hq

theorem RequestClass.memoryResponse (tag : BitVec 16) (result : MemResult) (words : List Word) : RequestClass.Statement (.memoryResponse tag result words) :=
  fun _ _ hq => by cases hq

theorem RequestClass.responseDeparture : RequestClass.Statement (.responseDeparture) :=
  fun _ _ hq => by cases hq

theorem RequestClass.deadlineExpiry : RequestClass.Statement (.deadlineExpiry) :=
  fun _ _ hq => by cases hq

theorem RequestClass.subReadExpiry (entry : Fin 64) : RequestClass.Statement (.subReadExpiry entry) :=
  fun _ _ hq => by cases hq

theorem RequestClass.abandonment (entry : Fin 64) : RequestClass.Statement (.abandonment entry) :=
  fun _ _ hq => by cases hq

theorem RequestClass.fetchExpiry : RequestClass.Statement (.fetchExpiry) :=
  fun _ _ hq => by cases hq

theorem RequestClass.attach (tributary : BitVec 16) (width targetLag fill : Byte) : RequestClass.Statement (.attach tributary width targetLag fill) :=
  fun _ _ hq => by cases hq

theorem RequestClass.detach (tributary : BitVec 16) : RequestClass.Statement (.detach tributary) :=
  fun _ _ hq => by cases hq

theorem RequestClass.clearCounts (tributary : BitVec 16) : RequestClass.Statement (.clearCounts tributary) :=
  fun _ _ hq => by cases hq

theorem RequestClass.place (tributary : BitVec 16) (carrier : Byte) (pick scatter : Bool) (grains : List Byte) : RequestClass.Statement (.place tributary carrier pick scatter grains) :=
  fun _ _ hq => by cases hq

theorem RequestClass.regroom (tributary : BitVec 16) (carrier : Byte) (pick scatter : Bool) (grains : List Byte) : RequestClass.Statement (.regroom tributary carrier pick scatter grains) :=
  fun _ _ hq => by cases hq

theorem RequestClass.unplace (tributary : BitVec 16) (carrier : Byte) : RequestClass.Statement (.unplace tributary carrier) :=
  fun _ _ hq => by cases hq

theorem RequestClass.carrierOn (carrier : Byte) (costLimit : BitVec 16) : RequestClass.Statement (.carrierOn carrier costLimit) :=
  fun _ _ hq => by cases hq

theorem RequestClass.carrierOff (carrier : Byte) : RequestClass.Statement (.carrierOff carrier) :=
  fun _ _ hq => by cases hq

theorem RequestClass.setLimits (fields : LimitFields) : RequestClass.Statement (.setLimits fields) :=
  fun _ _ hq => by cases hq

theorem RequestClass.setNotice (fields : NoticeFields) : RequestClass.Statement (.setNotice fields) :=
  fun _ _ hq => by cases hq

theorem RequestClass.mark (value : BitVec 32) : RequestClass.Statement (.mark value) :=
  fun _ _ hq => by cases hq

theorem RequestClass.queryTributary (tributary : BitVec 16) : RequestClass.Statement (.queryTributary tributary) :=
  fun _ _ hq => by cases hq

theorem RequestClass.queryCarrier (carrier start : Byte) : RequestClass.Statement (.queryCarrier carrier start) :=
  fun _ _ hq => by cases hq

theorem RequestClass.setMonitor (fields : MonitorFields) : RequestClass.Statement (.setMonitor fields) :=
  fun _ _ hq => by cases hq

theorem RequestClass.readMonitor (counter : Byte) : RequestClass.Statement (.readMonitor counter) :=
  fun _ _ hq => by cases hq

theorem RequestClass.lockMonitor (counter : Byte) : RequestClass.Statement (.lockMonitor counter) :=
  fun _ _ hq => by cases hq

theorem RequestClass.clearTables : RequestClass.Statement (.clearTables) :=
  fun _ _ hq => by cases hq

theorem RequestClass.badCode (code : Byte) : RequestClass.Statement (.badCode code) :=
  fun _ _ hq => by cases hq

end Sys2Proof.Laws
end

