-- ==== Sys2Proof/Laws/Record.lean ====
section
/-! SUPPORT. The bytes of a command record, place by place (Figure 12-3). -/

namespace Sys2Proof

open Machine

@[simp] theorem length_padTo (n : Nat) (bs : List Byte) : (padTo n bs).length = n := by
  simp [padTo]; omega

/-- Padding adds nothing but zero bytes. -/
theorem getD_padTo (n : Nat) (bs : List Byte) (i : Nat) (h : i < n) : (padTo n bs).getD i 0 = bs.getD i 0 := by
  rcases Nat.lt_or_ge i bs.length with hi | hi
  · have hm : i < (bs.take n).length := by simp; omega
    rw [padTo, List.getD_append _ _ _ _ hm, List.getD_eq_getElem _ _ hm, List.getElem_take, List.getD_eq_getElem _ _ hi]
  · have hm : (bs.take n).length ≤ i := by simp; omega
    rw [padTo, List.getD_append_right _ _ _ _ hm, List.getD_eq_default _ _ hi, List.getD_replicate _ (by simp; omega)]

variable (code flags : Byte) (tributary : BitVec 16) (carrier width targetLag fill : Byte) (params grains : List Byte)

@[simp] theorem length_recordOf :
    (recordOf code flags tributary carrier width targetLag fill params grains).length = 128 := by
  simp [recordOf]

/-- The first eight bytes of a record, then its parameters, its grain list field and the completion area. -/
theorem recordOf_eq : recordOf code flags tributary carrier width targetLag fill params grains =
    [code, flags, BitVec.ofNat 8 tributary.toNat, BitVec.ofNat 8 (tributary.toNat / 256), carrier, width, targetLag,
      fill] ++ (padTo 8 params ++ (padTo 64 grains ++ List.replicate 48 0)) := by
  simp [recordOf, leBytes]

@[simp] theorem recByte_recordOf_code :
    recByte (recordOf code flags tributary carrier width targetLag fill params grains) 0 = code := by
  rw [recordOf_eq]; rfl
@[simp] theorem recByte_recordOf_flags :
    recByte (recordOf code flags tributary carrier width targetLag fill params grains) 1 = flags := by
  rw [recordOf_eq]; rfl
@[simp] theorem recByte_recordOf_carrier :
    recByte (recordOf code flags tributary carrier width targetLag fill params grains) 4 = carrier := by
  rw [recordOf_eq]; rfl
@[simp] theorem recByte_recordOf_width :
    recByte (recordOf code flags tributary carrier width targetLag fill params grains) 5 = width := by
  rw [recordOf_eq]; rfl
@[simp] theorem recByte_recordOf_targetLag :
    recByte (recordOf code flags tributary carrier width targetLag fill params grains) 6 = targetLag := by
  rw [recordOf_eq]; rfl
@[simp] theorem recByte_recordOf_fill :
    recByte (recordOf code flags tributary carrier width targetLag fill params grains) 7 = fill := by
  rw [recordOf_eq]; rfl

/-- The two bytes of the tributary field. -/
@[simp] theorem recNat_recordOf_tributary :
    recNat (recordOf code flags tributary carrier width targetLag fill params grains) 2 2 = tributary.toNat := by
  have h : (List.range 2).map (fun j => recByte
      (recordOf code flags tributary carrier width targetLag fill params grains) (2 + j)) = leBytes 2 tributary.toNat := by
    rw [recordOf_eq]; rfl
  rw [recNat, h, natOfBytes_leBytes]
  exact Nat.mod_eq_of_lt tributary.isLt

/-- A byte of the command parameters. -/
theorem recByte_recordOf_param (i : Nat) (h : i < 8) :
    recByte (recordOf code flags tributary carrier width targetLag fill params grains) (8 + i) = params.getD i 0 := by
  rw [recordOf_eq, recByte, List.getD_append_right _ _ _ _ (by simp),
    List.getD_append _ _ _ _ (by simpa using h), ← getD_padTo 8 params i h]
  congr 1
  simp

/-- A byte of the grain list field. -/
theorem recByte_recordOf_grain (i : Nat) (h : i < 64) :
    recByte (recordOf code flags tributary carrier width targetLag fill params grains) (16 + i) = grains.getD i 0 := by
  rw [recordOf_eq, recByte, List.getD_append_right _ _ _ _ (by simp; omega),
    List.getD_append_right _ _ _ _ (by simp; omega), List.getD_append _ _ _ _ (by simp; omega),
    ← getD_padTo 64 grains i h]
  congr 1
  simp; omega

/-- Flag bit i of the flag byte (Figure 12-4). -/
theorem getLsbD_flagByte (bits : List Bool) (i : Nat) (h : i < 8) :
    (flagByte bits).getLsbD i = bits.getD i false := by
  rw [flagByte, BitVec.getLsbD_ofNat]
  simp only [h, decide_true, Bool.true_and]
  clear h
  induction bits generalizing i with
  | nil => simp
  | cons b bits ih =>
    cases i with
    | zero =>
      cases b <;> simp [Nat.testBit_zero]
    | succ i =>
      rw [List.getD_cons_succ, ← ih, List.foldr_cons, Nat.testBit_succ]
      congr 1
      split <;> omega

end Sys2Proof
end

