-- ==== Sys2Proof/Laws/Step.lean ====
section
/-! SUPPORT. What a property must survive to survive every step of the part: one clause for each thing that can happen, and the induction over commands done once. -/

namespace Sys2Proof.Machine

/-- What a property must survive to survive every step: one clause for each thing that can happen to the part. -/
structure StepClosed (I : State → Prop) : Prop where
  channel : ∀ s c, I s → I (s.withChannel c)
  pending : ∀ s p, I s → I { s with pending := p }
  stray : ∀ s w, I s → I (s.dropStray w)
  forward : ∀ s w, I s → region w.address ≠ .window → s.forwardedWrites < 32 → I ((s.forwardWrite w).noteWrite w)
  hold : ∀ s r b, I s → I (s.holdRead r b)
  cycle : ∀ s c p, I s → (s.carrier c).on = true → I (s.cycleStart c p)
  accept : ∀ s i r, I s → (s.parent i).state = .free → s.subReadsNeeded r ≤ s.freeSubReads → I (s.acceptRead i r)
  stale : ∀ s, I s → I s.staleResponse
  run : ∀ s r c, I s → s.response.fetch.issued = true → I ((s.beginCommand r).run c)
  fetchFails : ∀ s, I s → s.response.fetch.issued = true → I (s.freeFetch.complete .fetchError [])
  answer : ∀ s k result words, I s → (s.sub k).state = .issued → I (s.answer k result words)
  late : ∀ s k, I s → (s.sub k).state = .expired → I (s.lateArrival k)
  depart : ∀ s i rest, I s → s.translation.ready = i :: rest → I (s.depart i)
  apply : ∀ s ch, I s → s.change = some ch → I (s.applyChange ch .expiry)
  expire : ∀ s k, I s → (s.sub k).state = .issued → I (s.expireSub k)
  abandon : ∀ s k, I s → (s.sub k).state = .expired → I (s.abandonSub k)
  tick : ∀ s, I s → I s.advanceCount
  reset : ∀ s, I s → I s.hardwareReset
  taken : ∀ s q rest, I s → s.mQueue = q :: rest →
    I { s with mQueue := rest, outputs := { s.outputs with requests := s.outputs.requests ++ [q] } }

variable {I : State → Prop}

theorem State.cycleStart_translation (s : State) (c p) : (s.cycleStart c p).translation = s.translation := by
  unfold State.cycleStart
  simp only
  rw [(State.recomputeIndications_keeps _ _ _ _ _).translation, (State.evaluateAll_keeps _ _).translation]
  split
  · simp [State.applyChange, State.rewriteMap, State.countCycle, State.takePage]
    split
    · split <;> simp
    · rfl
  · simp [State.countCycle, State.takePage]
    split
    · split <;> simp
    · rfl

theorem StepClosed.offerRead (h : StepClosed I) (s : State) (r b) (hs : I s) : I (s.offerRead r b).1 := by
  unfold State.offerRead
  split
  · exact h.hold s r b hs
  · next i hi =>
    have hf : (s.parent i).state = .free := of_decide_eq_true (lowest?_spec hi).1
    have hc : I (s.withCycleStart r) ∧ (s.withCycleStart r).translation = s.translation := by
      unfold State.withCycleStart
      split
      · next c p hcall =>
        refine ⟨h.cycle s c p hs ?_, State.cycleStart_translation _ _ _⟩
        unfold State.cycleCall at hcall
        simp only at hcall
        split at hcall
        · next hcond =>
          cases hcall
          simp only [Bool.and_eq_true] at hcond
          exact hcond.1.2
        · cases hcall
      · exact ⟨hs, rfl⟩
    simp only
    split
    · next hn => exact h.accept _ i r hc.1 (by unfold State.parent at *; rw [hc.2]; exact hf) hn
    · exact h.hold _ _ _ hc.1

theorem StepClosed.offerWrite (h : StepClosed I) (s : State) (w) (hs : I s) : I (s.offerWrite w).1 := by
  unfold State.offerWrite
  split
  · exact h.stray s w hs
  · next hr =>
    split
    · next hf => exact h.forward s w hs hr hf
    · exact hs

theorem StepClosed.offer (h : StepClosed I) (s : State) (x : Held) (hs : I s) : I (s.offer x).1 := by
  unfold State.offer
  split
  · exact h.offerRead s _ _ hs
  · exact h.offerWrite s _ hs

theorem StepClosed.offerAll (h : StepClosed I) (l : List Held) (s : State) (hs : I s) : I (s.offerAll l) := by
  induction l generalizing s with
  | nil => exact h.channel s _ hs
  | cons x rest ih =>
    have h1 := h.offer s x hs
    unfold State.offerAll
    split
    · next t he => rw [he] at h1; exact ih t h1
    · next t he => rw [he] at h1; exact h.channel t _ h1

theorem StepClosed.present (h : StepClosed I) (s : State) (q) (hs : I s) : I (s.present q) := by
  unfold State.present
  split
  · exact h.offerAll _ s hs
  · exact h.channel s _ hs

theorem StepClosed.underFetch (h : StepClosed I) (s : State) (r : Record) (c : Command) (hs : I s) :
    I (s.underFetch r (·.run c)) := by
  unfold State.underFetch
  split
  · next hi => exact h.run s r c hs hi
  · exact hs

theorem StepClosed.takeResponse (h : StepClosed I) (s : State) (tag result words) (hs : I s) :
    I (s.takeResponse tag result words) := by
  unfold State.takeResponse State.fetchResponse State.subResponse
  split
  · exact h.stale s hs
  · split
    · split
      · exact h.stale s hs
      · next hn =>
        have hi : s.response.fetch.issued = true := by
          simp only [not_or] at hn; simpa using hn.2.1
        split
        · exact h.run s _ _ hs hi
        · exact h.fetchFails s hs hi
    · split
      · simp only
        split
        · exact h.stale s hs
        · split
          · exact h.stale s hs
          · next he => exact h.answer s _ _ _ hs he
          · next he => exact h.late s _ hs he
      · exact h.stale s hs

theorem StepClosed.takeDeadline (h : StepClosed I) (s : State) (hs : I s) : I s.takeDeadline := by
  unfold State.takeDeadline State.changeDue
  split
  · next ch hc =>
    refine h.apply s ch hs ?_
    revert hc
    cases hch : s.change with
    | none => simp
    | some d => simp only; split <;> intro hc <;> cases hc; rfl
  · exact hs

theorem StepClosed.takeFetchExpiry (h : StepClosed I) (s : State) (hs : I s) : I s.takeFetchExpiry := by
  unfold State.takeFetchExpiry
  split
  · next hd => exact h.fetchFails s hs (by unfold State.fetchDue at hd; simp only [Bool.and_eq_true] at hd; exact hd.1)
  · exact hs

theorem StepClosed.takeExpiry (h : StepClosed I) (s : State) (k) (hs : I s) : I (s.takeExpiry k) := by
  unfold State.takeExpiry
  split
  · next hd => exact h.expire s k hs (by unfold State.expiryDue at hd; simp at hd; exact hd.1)
  · exact hs

theorem StepClosed.takeAbandonment (h : StepClosed I) (s : State) (k) (hs : I s) : I (s.takeAbandonment k) := by
  unfold State.takeAbandonment
  split
  · next hd => exact h.abandon s k hs (by unfold State.abandonDue at hd; simp at hd; exact hd.1)
  · exact hs

theorem StepClosed.takeReached (h : StepClosed I) (s : State) (hs : I s) : I s.takeReached := by
  unfold State.takeReached
  have : ∀ (l : List (Fin 64)) (s : State), I s → I (l.foldl (fun s k => (s.takeExpiry k).takeAbandonment k) s) := by
    intro l
    induction l with
    | nil => exact fun _ hs => hs
    | cons k l ih => exact fun s hs => ih _ (h.takeAbandonment _ k (h.takeExpiry s k hs))
  exact this _ _ (h.takeFetchExpiry _ (h.takeDeadline _ hs))

/-- A property that survives everything that can happen to the part survives every command. -/
theorem StepClosed.exec (h : StepClosed I) (i : Instr) (s t : State) (hs : I s) (he : exec i s = .next t) : I t := by
  cases i with
  | hardwareReset =>
    have ht : s.hardwareReset = t := by
      have := he
      unfold Machine.exec execHardwareReset at this
      exact Host.Outcome.next.inj this
    subst ht
    exact h.reset s hs
  | microsecondCountAdvance =>
    have ht : s.takeReached.advanceCount = t := by
      have := he
      unfold Machine.exec execMicrosecondCountAdvance at this
      exact Host.Outcome.next.inj this
    subst ht
    exact h.tick _ (h.takeReached s hs)
  | tributaryRegionWrite w =>
    cases he; exact h.present s _ hs
  | postWordWrite w =>
    cases he; exact h.present s _ hs
  | takeWordWrite w =>
    cases he; exact h.present s _ hs
  | passWrite w =>
    cases he; exact h.present s _ hs
  | strayWrite w =>
    cases he; exact h.present s _ hs
  | carrierWindowRead w =>
    cases he; exact h.present s _ hs
  | passRead w =>
    cases he; exact h.present s _ hs
  | heldReadReoffer =>
    change execHeldReadReoffer s = _ at he
    unfold execHeldReadReoffer at he
    cases he
    split
    · exact h.offerAll _ s hs
    · exact hs
  | heldWriteReoffer =>
    change execHeldWriteReoffer s = _ at he
    unfold execHeldWriteReoffer at he
    cases he
    split
    · exact h.offerAll _ s hs
    · exact hs
  | mSideRequestTaken =>
    change execMSideRequestTaken s = _ at he
    unfold execMSideRequestTaken at he
    split at he
    · cases he; exact hs
    · next q rest hq =>
      have ht := h.taken s q rest hs hq
      cases he
      split
      · unfold State.noteForwardLeft
        split
        · exact h.channel _ _ ht
        · exact ht
      · exact ht
  | memoryResponse tag result words =>
    cases he; exact h.takeResponse s _ _ _ hs
  | responseDeparture =>
    change execResponseDeparture s = _ at he
    unfold execResponseDeparture at he
    split at he
    · next i rest hr => cases he; exact h.depart s i rest hs hr
    · cases he; exact hs
  | deadlineExpiry =>
    cases he; exact h.takeDeadline s hs
  | subReadExpiry k =>
    cases he; exact h.takeExpiry s k hs
  | abandonment k =>
    cases he; exact h.takeAbandonment s k hs
  | fetchExpiry =>
    cases he; exact h.takeFetchExpiry s hs
  | attach a b c d =>
    cases he; exact h.underFetch s _ (.attach a b c d) hs
  | detach a =>
    cases he; exact h.underFetch s _ (.detach a) hs
  | clearCounts a =>
    cases he; exact h.underFetch s _ (.clearCounts a) hs
  | place a b c d e =>
    cases he; exact h.underFetch s _ (.place a b c d e) hs
  | regroom a b c d e =>
    cases he; exact h.underFetch s _ (.regroom a b c d e) hs
  | unplace a b =>
    cases he; exact h.underFetch s _ (.unplace a b) hs
  | carrierOn a b =>
    cases he; exact h.underFetch s _ (.carrierOn a b) hs
  | carrierOff a =>
    cases he; exact h.underFetch s _ (.carrierOff a) hs
  | setLimits a =>
    cases he; exact h.underFetch s _ (.setLimits a) hs
  | setNotice a =>
    cases he; exact h.underFetch s _ (.setNotice a) hs
  | mark a =>
    cases he; exact h.underFetch s _ (.mark a) hs
  | queryTributary a =>
    cases he; exact h.underFetch s _ (.queryTributary a) hs
  | queryCarrier a b =>
    cases he; exact h.underFetch s _ (.queryCarrier a b) hs
  | setMonitor a =>
    cases he; exact h.underFetch s _ (.setMonitor a) hs
  | readMonitor a =>
    cases he; exact h.underFetch s _ (.readMonitor a) hs
  | lockMonitor a =>
    cases he; exact h.underFetch s _ (.lockMonitor a) hs
  | clearTables =>
    cases he; exact h.underFetch s _ .clearTables hs
  | badCode code =>
    cases he; exact h.underFetch s _ _ hs

/-- A property that survives everything that can happen to the part survives every step. -/
theorem StepClosed.step (h : StepClosed I) (s t : State) (hs : I s) (he : Machine.step s = .next t) : I t := by
  unfold Machine.step at he
  split at he
  · cases he; exact hs
  · exact h.exec _ _ _ (h.pending s _ hs) he

end Sys2Proof.Machine
end

