-- ==== Sys2Proof/Tests/Slice0.lean ====
section
/-! SUPPORT. The model's own tests: ill-formed commands refused, the worked examples of the manual one step at a time, and for each statement with hypotheses a state that meets them. -/

namespace Sys2Proof.Tests

open Machine

-- Each kernel evaluation in its turn: side by side they take more memory than the check allows.
set_option Elab.async false

/-! ## Well-formedness: each check refuses an ill-formed term -/

/-- A request row must name its own class: a tributary-buffer address is no post word (R141). -/
theorem test_wellFormed_postWord : (Instr.postWordWrite ⟨0, 0x0000_0010, 13, 0xFFFF⟩).wellFormed = false := by decide
/-- A post-word write that sets flag 0 only carries no count: it is a PASS write (R141). -/
theorem test_wellFormed_postWord_flags : (Instr.postWordWrite ⟨0, 0x0088_0000, 13, 0xFFFD⟩).wellFormed = false := by decide
theorem test_wellFormed_takeWord : (Instr.takeWordWrite ⟨0, 0x0088_0000, 13, 0xFFFF⟩).wellFormed = false := by decide
theorem test_wellFormed_passWrite : (Instr.passWrite ⟨0, 0x0088_0030, 13, 0x0003⟩).wellFormed = false := by decide
theorem test_wellFormed_strayWrite : (Instr.strayWrite ⟨0, 0x0088_0000, 13, 0xFFFF⟩).wellFormed = false := by decide
theorem test_wellFormed_tributaryWrite :
    (Instr.tributaryRegionWrite ⟨0, 0x0080_0000, 13, 0xFFFF⟩).wellFormed = false := by decide
theorem test_wellFormed_windowRead : (Instr.carrierWindowRead ⟨0, 0, 0x007F_FFF0, 1⟩).wellFormed = false := by decide
theorem test_wellFormed_passRead : (Instr.passRead ⟨0, 0, 0x0087_FFF0, 1⟩).wellFormed = false := by decide
theorem test_wellFormed_place_grains : (Instr.place 55 2 true false [24]).wellFormed = false := by decide
theorem test_wellFormed_regroom_grains : (Instr.regroom 9 2 false false (List.replicate 65 0)).wellFormed = false := by decide
/-- 0x7F names CLEAR-TABLES (Figure 12-6). -/
theorem test_wellFormed_badCode : (Instr.badCode 0x7F).wellFormed = false := by decide

/-! ## States of the worked examples -/

/-- The state a command answers. -/
def after (i : Instr) (s : State) : State :=
  match exec i s with
  | .next t => t
  | _ => s

/-- A placement as it stands between cycle starts. -/
def placement (c : CarrierId) (er iw : BitVec 16) (smoothed quiet : Nat) : Placement :=
  ⟨c, er, smoothed, .centred, quiet, iw, false, false⟩

/-- A tributary's record with all four counts 0 and nothing in flight. -/
def tributary (state : TribState) (width lag : Nat) (fill : Byte) (iw : BitVec 16) (ps : List Placement) : Tributary :=
  { Tributary.reset with state := state, width := width, targetLag := lag, fill := fill, iw := iw, placements := ps }

/-- A carrier map from its entries (position, tributary, slot). -/
def mapOf (entries : List (Position × TribId × Nat)) : CarrierMap :=
  entries.foldl (fun m e => m.set e.1 (some ⟨e.2.1, e.2.2⟩)) (Vector.replicate 240 none)

/-- t17 and t40 of Figure 1-2. -/
def seventeenAndForty : List (Position × TribId × Nat) :=
  [(5, 17, 0), (6, 17, 1), (7, 17, 2), (8, 40, 0), (9, 40, 1), (10, 40, 2), (11, 40, 3), (12, 40, 4), (13, 40, 5),
   (14, 40, 6), (15, 40, 7), (16, 40, 8), (17, 40, 9)]

/-- The map of Figure 1-2. -/
def figure1_2 : CarrierMap := mapOf (seventeenAndForty ++ [(20, 9, 0), (30, 9, 1)])

/-- The bytes that a map shows when every placement is NORMAL. -/
def allNormal (m : CarrierMap) : Vector Indication 240 := mapTable (fun e => if e.isSome then .normal else .unassigned) m

/-- Carrier 2 of section 1.2 and Figure 6-4, its current page 5. -/
def carrierTwo : Carrier :=
  { Carrier.reset with
    on := true, page := some 5, generation := 30, cost := 5, mapped := 15, map := figure1_2,
    indications := allNormal figure1_2 }

/-- The part with carrier 2 groomed as in Figures 1-2 and 6-4, at microsecond count 7000. -/
def groomed : State :=
  let s := (((State.reset.setCarrier 2 carrierTwo).setTrib 17
    (tributary .active 3 3 0x17 803 [placement 2 800 803 768 0])).setTrib 40
    (tributary .active 10 3 0x33 3004 [placement 2 3001 3004 768 0])).setTrib 9
    (tributary .active 2 3 0x7E 2206 [placement 2 2203 2206 768 0])
  { s with response := { s.response with microseconds := 7000 } }

/-- A state whose fetch of record 0 is outstanding: the post word carried 1. -/
def fetching (s : State) : State :=
  { s with
    processor := { s.processor with post := 1, phase := .fetching }
    response := { s.response with fetch := ⟨true, 1, s.response.microseconds, 6⟩ } }

/-- The reply data that the completion of the command in record D mod 256 wrote: bytes 84 on of the record (Figure 12-9),
`n` of them, as the last four requests of the M-side queue carry them, the done word last. -/
def replyBytes (n : Nat) (s : State) : List Byte :=
  ((s.mQueue.filterMap fun r => match r with
    | .write .own _ a w _ => if 0x0088_8000 ≤ a.toNat ∧ a.toNat < 0x0089_0000 then some (bytesOfWord w) else none
    | _ => none).flatten.drop 4).take n

/-! ## The map (Chapter 1) -/

/-- Figure 1-3: cost 5, mapped count 15. -/
theorem test_cost_figure1_3 : readCost figure1_2 = 5 ∧ mappedCount figure1_2 = 15 := by decide +kernel

/-- Section 1.2: with t9 at 20 and 21 the cost is 4. -/
theorem test_cost_moved : readCost (mapOf (seventeenAndForty ++ [(20, 9, 0), (21, 9, 1)])) = 4 := by decide +kernel

/-- Figure 1-4: width 6 goes to 24 to 29. -/
theorem test_pick_figure1_4 : pick? 6 false none figure1_2 = some [24, 25, 26, 27, 28, 29] := by decide +kernel

/-- R10: with no run of 210, a scatter takes the lowest free positions: 0 to 4 first, then 18 and 19. -/
theorem test_pick_scatter :
    pick? 210 false none figure1_2 = none ∧
      (pick? 210 true none figure1_2).map (·.take 8) = some [0, 1, 2, 3, 4, 18, 19, 21] := by decide +kernel

/-- Section 1.4: t55, width 6, is admitted with PICK on carrier 2: the change waits, pending flag set. -/
theorem test_place_pick :
    let s := fetching (groomed.setTrib 55 (tributary .idle 6 3 0x11 600 []))
    let t := after (.place 55 2 true false (List.replicate 64 0)) s
    t.change.map (·.positions) = some [24, 25, 26, 27, 28, 29] ∧ t.processor.phase = .waitingApply ∧
      (t.carrier 2).pendingFlag = true ∧ t.change.map (·.deadline) = some 7048 := by decide +kernel

/-- R8: position 20 holds t9, so PLACE with PICK clear completes GRAIN-TAKEN, record word 5 and the done word queued. -/
theorem test_place_taken :
    let s := fetching (groomed.setTrib 55 (tributary .idle 2 3 0x11 600 []))
    let t := after (.place 55 2 false false (18 :: 20 :: List.replicate 62 0)) s
    t.change = none ∧ t.processor.done = 1 ∧
      t.mQueue.drop 2 = [ownWrite 0x0088_8050 0x13, ownWrite 0x0088_8060 0, ownWrite 0x0088_8070 0,
        ownWrite 0x0088_0010 1] := by decide +kernel

/-- Figure 1-9: REGROOM of t9 to 18 and 19 at the next cycle start: cost 4, generation 31, ER kept and advanced to 2204,
bytes MOVED and UNASSIGNED. -/
theorem test_regroom_figure1_9 :
    let s := after (.regroom 9 2 false false (18 :: 19 :: List.replicate 62 0)) (fetching groomed)
    let t := after (.carrierWindowRead ⟨4, 20, 0x0081_6100, 8⟩) s
    let r := t.carrier 2
    s.change.map (·.positions) = some [18, 19] ∧ r.cost = 4 ∧ r.generation = 31 ∧ r.page = some 6 ∧
      (t.trib 9).placements.map (·.er) = [2204] ∧ (r.indications.toList.drop 16).take 5 =
        [Indication.normal, .normal, .moved, .moved, .unassigned] := by decide +kernel

/-- Figures 1-6 and 1-8, case B: at the deadline t100's placement takes ER 513 and no fresh mark; cost 10, generation 13. -/
theorem test_deadline_figure1_8 :
    let s := { (fetching State.reset).setCarrier 4 { Carrier.reset with on := true, page := some 6, generation := 12 } with
      response := { State.reset.response with microseconds := 10000, fetch := ⟨true, 1, 10000, 6⟩ } }
    let s := after (.place 100 4 false false ([40, 41, 42, 43] ++ List.replicate 60 0))
      (s.setTrib 100 (tributary .idle 4 3 0 516 []))
    let t := after .deadlineExpiry { s with response := { s.response with microseconds := 10048 } }
    s.change.map (·.deadline) = some 10048 ∧ (t.carrier 4).page = some 6 ∧ (t.carrier 4).generation = 13 ∧
      (t.trib 100).state = .active ∧ (t.trib 100).placements = [placement 4 513 516 768 0] ∧
      (t.carrier 4).indications[40] = .fresh ∧ replyBytes 4 t = [1, 0, 13, 0] := by decide +kernel

/-! ## Tributary commands (Chapter 2) -/

/-- Figures 2-5 and 2-6: DETACH of t300 with one read outstanding leaves it RETIRING; the reply says 4 and 1. -/
theorem test_detach_figure2_6 :
    let tr := { tributary .idle 5 3 0x55 4413 [] with repeatSlips := 2, jumps := 1, inFlight := 1 }
    let t := after (.detach 300) (fetching (State.reset.setTrib 300 tr))
    t.trib 300 = { tr with state := .retiring, width := 0 } ∧ replyBytes 2 t = [4, 1] := by decide +kernel

/-- Section 2.7: the ATTACH of count 50005 finds the tributary RETIRING. -/
theorem test_attach_retiring :
    let tr := { tributary .retiring 0 3 0x55 4413 [] with inFlight := 1 }
    let t := after (.attach 300 8 3 0x55) (fetching (State.reset.setTrib 300 tr))
    t.trib 300 = tr ∧ replyBytes 4 t = [4, 0, 0, 0] := by decide +kernel

/-- R36: an ATTACH with target lag 9 is brought to 5. -/
theorem test_attach_clamps :
    let t := after (.attach 12 8 9 0x55) (fetching State.reset)
    t.trib 12 = tributary .idle 8 5 0x55 0 [] ∧ replyBytes 4 t = [1, 8, 5, 0x55] := by decide +kernel

/-- R40: the reply of CLEAR-COUNTS carries the counts before. -/
theorem test_clearCounts :
    let tr := { tributary .idle 5 3 0x55 4413 [] with repeatSlips := 2, jumps := 0x0101, strays := 7 }
    let t := after (.clearCounts 300) (fetching (State.reset.setTrib 300 tr))
    t.trib 300 = tributary .idle 5 3 0x55 4413 [] ∧ replyBytes 10 t = [1, 0, 2, 0, 0, 0, 1, 1, 7, 0] := by decide +kernel

/-! ## Ingress (Chapter 3) -/

/-- Tributary 200 of section 3.6, with its IW and its counts. -/
def t200 (state : TribState) (iw jumps strays : BitVec 16) (marked : Bool) : Tributary :=
  { tributary state 3 3 0xA0 iw [{ placement 5 93 96 768 0 with restartPending := marked }] with
    jumps := jumps, strays := strays }

/-- A whole-word write to a page and slot of tributary 200. -/
def writeTo (page slot : Nat) : Instr :=
  .tributaryRegionWrite ⟨3, BitVec.ofNat 32 (200 * 0x2000 + page * 0x400 + slot * 0x10), 0xAB, 0xFFFF⟩

/-- Figure 3-2, writes 3 and 5: page 0 expected, then page 3 with 2 pages skipped. -/
theorem test_ingress_figure3_2 :
    let s := State.reset.setTrib 200 (t200 .active 96 0 0 false)
    (after (writeTo 0 2) s).trib 200 = t200 .active 97 0 0 false ∧
      (after (writeTo 3 2) (s.setTrib 200 (t200 .active 97 0 1 false))).trib 200 = t200 .active 100 1 1 false ∧
      (after (writeTo 3 2) (s.setTrib 200 (t200 .active 100 1 1 false))).trib 200 = t200 .active 108 2 1 false := by
  decide +kernel

/-- Section 3.6: page 6 completed while SILENT restores; no jump is counted, the placement is marked. -/
theorem test_restoration_figure3_4 :
    let t := after (writeTo 6 2) (State.reset.setTrib 200 (t200 .silent 108 2 1 false))
    t.trib 200 = t200 .active 111 2 1 true ∧ t.events.shadow = [4] := by decide +kernel

/-! ## Carriers (Chapter 4) -/

/-- Figure 4-4, row 2: CARRIER-ON with limit 300. -/
theorem test_carrierOn_figure4_4 :
    let t := after (.carrierOn 9 300) (fetching State.reset)
    t.carrier 9 = { Carrier.reset with on := true } ∧
      replyBytes 12 t = [0, 0, 0, 0, 0, 0, 0xFF, 1, 0, 0, 0xF0, 0] := by decide +kernel

/-- R57: CARRIER-OFF of a carrier that still holds entries is refused. -/
theorem test_carrierOff_mapped :
    let t := after (.carrierOff 2) (fetching groomed)
    t.carrier 2 = carrierTwo ∧ t.processor.done = 1 := by decide +kernel

/-- Carrier 9 after row 5 of Figure 4-4. -/
def carrierNine : Carrier :=
  let m := mapOf [(0, 70, 0), (1, 70, 1)]
  { Carrier.reset with
    on := true, page := some 5, cycles := 2, generation := 1, cost := 1, mapped := 2, map := m,
    indications := mapTable (fun e => if e.isSome then .fresh else .unassigned) m }

/-- Section 12.6: words 240 and 241 of carrier 9 as bytes, read by an overhead read. -/
theorem test_overhead_word240 :
    let t := after (.carrierWindowRead ⟨4, 1, 0x0084_DF00, 2⟩) (State.reset.setCarrier 9 carrierNine)
    ((t.parent 0).words.map fun w => bytesOfWord (w.getD 0)) =
      [[2, 0, 0, 0, 1, 0, 5, 1, 2, 1, 0xF0, 0, 0, 0, 0, 0], [2, 2, 0, 0, 0, 0, 0, 0, 0, 0, 0, 0, 0, 0, 0, 0]] := by
  decide +kernel

/-- Figure 4-4, row 7: page field 0 after 5 is a page jump; t70 advances to ER 39 and shows NORMAL. -/
theorem test_pageJump_figure4_4 :
    let s := (State.reset.setCarrier 9 carrierNine).setTrib 70 (tributary .active 2 2 0 41 [placement 9 38 40 512 0])
    let t := after (.carrierWindowRead ⟨4, 1, 0x0084_8000, 8⟩) s
    (t.carrier 9).page = some 0 ∧ (t.carrier 9).cycles = 3 ∧ (t.carrier 9).indications[1] = .normal ∧
      (t.trib 70).placements.map (·.er) = [39] ∧ t.events.shadow = [3] ∧ t.translation.subReads[0].address = 0x0008_DC00 := by
  decide +kernel

/-! ## Lag (Chapter 5) -/

/-- Figures 5-4 and 5-5: S under successive lags. -/
theorem test_smooth_figure5_4 :
    smooth 768 2 = 736 ∧ smooth 736 2 = 708 ∧ smooth 708 1 = 652 ∧ smooth 652 1 = 603 ∧ smooth 413 1 = 394 ∧
      smooth 394 1 = 377 ∧ smooth 377 3 = 425 ∧ smooth 631 3 = 648 := by decide

/-- Figures 5-4 and 5-5: LOW below 384, left at 640 or above. -/
theorem test_drift_figure5_5 :
    driftAfter .reset 3 394 .centred = .centred ∧ driftAfter .reset 3 377 .centred = .low ∧
      driftAfter .reset 3 631 .low = .low ∧ driftAfter .reset 3 648 .low = .centred := by decide

/-- Figure 5-6, row C: a backward slip of −3 at lag 0. -/
theorem test_slip_figure5_6 :
    let e := evaluation .reset (tributary .active 4 3 0 5003 []) (placement 11 5002 5003 676 2)
    e.placement = placement 11 5000 5003 687 3 ∧ e.slip = some ⟨-3, 0⟩ ∧ e.outcome = .repeated := by decide

/-- Figure 5-6, row D: silence before the advance. -/
theorem test_silence_figure5_6 :
    let e := evaluation .reset (tributary .active 4 3 0 5003 []) (placement 11 5000 5003 687 3)
    e.placement = placement 11 5000 5003 687 4 ∧ e.slip = none ∧ e.outcome = .silenced := by decide

/-- Figure 5-7, row E: recentring at IW 5004. -/
theorem test_restart_figure5_7 :
    let e := evaluation .reset (tributary .active 4 3 0 5004 [])
      { placement 11 5000 5003 687 4 with restartPending := true }
    e.placement = placement 11 5001 5004 768 0 ∧ e.outcome = .restart := by decide

/-- Figure 13-3, row 2: LAG-LOW at S 377. -/
theorem test_lagLow_figure13_3 :
    let e := evaluation .reset (tributary .active 4 3 0 2002 []) (placement 8 2000 2001 394 0)
    e.placement.er = 2001 ∧ e.placement.smoothed = 377 ∧ e.moved = some .low ∧ e.outcome = .normal := by decide

/-- Figure 13-4, row 1: silence found at carrier 3 turns the bytes of carrier 6 to ALARM in the same event. -/
theorem test_bridgeSilence_figure13_4 :
    let r := fun m => { Carrier.reset with on := true, page := some 3, map := m, indications := allNormal m }
    let s := ((State.reset.setCarrier 3 (r (mapOf [(0, 150, 0)]))).setCarrier 6 (r (mapOf [(9, 150, 3)]))).setTrib 150
      (tributary .active 4 2 0xEE 700 [placement 3 696 700 512 3, placement 6 698 700 512 2])
    let t := after (.carrierWindowRead ⟨1, 1, 0x0081_C000, 1⟩) s
    t.trib 150 = tributary .silent 4 2 0xEE 700 [placement 3 696 700 512 4, placement 6 698 700 512 2] ∧
      (t.carrier 3).indications[0] = .alarm ∧ (t.carrier 6).indications[9] = .alarm ∧
      (t.parent 0).words = [some 0xEEEEEEEEEEEEEEEEEEEEEEEEEEEEEEEE] ∧ (t.parent 0).status = .alarm := by
  decide +kernel

/-! ## Translation and responses (Chapters 6 and 7) -/

/-- The part after the read of Figure 6-4. -/
def cut : State := after (.carrierWindowRead ⟨4, 19, 0x0081_5100, 8⟩) groomed

/-- Figure 6-5: parent 0 and sub-reads 0 and 1. -/
theorem test_cut_figure6_5 :
    cut.parent 0 = { Parent.reset with
      state := .opened, source := 4, tag := 19, address := 0x0081_5100, length := 8, cls := .translated,
      carrier := some 2, words := [none, none, some 0, some 0, none, some 0, some 0, some 0], outstanding := 2 } ∧
    cut.sub 0 = ⟨.issued, 1, 0, 0, 2, some 40, some 2, 0x0005_0480, 7000, 6⟩ ∧
    cut.sub 1 = ⟨.issued, 1, 0, 4, 1, some 9, some 2, 0x0001_2C00, 7000, 6⟩ ∧
    cut.sourceList 4 = [0] ∧ (cut.trib 40).inFlight = 1 ∧ (cut.trib 9).inFlight = 1 := by decide +kernel

/-- Section 6.5: with t9 SILENT word 4 is filled with its fill byte and the status is ALARM. -/
theorem test_cut_alarm :
    let t := after (.carrierWindowRead ⟨4, 19, 0x0081_5100, 8⟩)
      (groomed.setTrib 9 { groomed.trib 9 with state := .silent })
    (t.parent 0).status = .alarm ∧ (t.parent 0).outstanding = 1 ∧
      (t.parent 0).words[4]? = some (some 0x7E7E7E7E7E7E7E7E7E7E7E7E7E7E7E7E) := by decide +kernel

/-- Figure 12-2: entry 1, generation 1, translation pool, epoch 1; the fetch of generation 2. -/
theorem test_mTag : mTag 1 1 false true = 0x0901 ∧ mTag 0 2 true false = 0x0600 := by decide

/-- Figure 6-6 and R107: a GOOD answer to entry 0 fills words 0 and 1 and releases the entry. -/
theorem test_goodAnswer :
    let t := after (.memoryResponse 0x0100 .good [0xA1, 0xA2]) cut
    (t.parent 0).words = [some 0xA1, some 0xA2, some 0, some 0, none, some 0, some 0, some 0] ∧
      (t.parent 0).outstanding = 1 ∧ (t.sub 0).state = .free ∧ (t.trib 40).inFlight = 0 := by decide +kernel

/-- R118: a FAULT answer to entry 1 writes the word as received, with status ERROR and fault count 1. -/
theorem test_faultAnswer :
    let t := after (.memoryResponse 0x0101 .fault [0xB1]) cut
    (t.parent 0).words[4]? = some (some 0xB1) ∧ (t.parent 0).status = .error ∧ (t.parent 0).faults = 1 ∧
      (t.parent 0).state = .opened := by decide +kernel

/-- Figure 13-2, count 8006: the expiry of entry 1 fills word 4 with t9's fill byte; status LATE. -/
theorem test_expiry :
    let s := { cut with response := { cut.response with microseconds := 7006 } }
    let t := after (.subReadExpiry 1) s
    (t.parent 0).words[4]? = some (some 0x7E7E7E7E7E7E7E7E7E7E7E7E7E7E7E7E) ∧ (t.parent 0).status = .late ∧
      (t.parent 0).late = 1 ∧ (t.sub 1).state = .expired ∧ (t.trib 9).inFlight = 1 := by decide +kernel

/-- Figure 2-7: t300 RETIRING, its entry 13 EXPIRED; abandoned at count 50048 it becomes FREE. READ-ABANDONED
(priority 6) stands before TRIB-RETIRED (priority 1). -/
theorem test_abandonment_figure2_7 :
    let s := (State.reset.setTrib 300 { tributary .retiring 0 3 0x55 4413 [] with inFlight := 1 }).setSub 13
      ⟨.expired, 1, 0, 0, 1, some 300, some 7, 0x0025_8800, 50000, 6⟩
    let t := after (.abandonment 13) { s with response := { s.response with microseconds := 50048 } }
    (t.sub 13).state = .free ∧ t.trib 300 = tributary .free 0 3 0x55 4413 [] ∧ t.events.shadow = [6, 1] := by
  decide +kernel

/-- Figure 7-5: an answer of generation 3 to entry 20 of generation 0 is stale. -/
theorem test_stale_figure7_5 :
    let s := State.reset.setSub 20 ⟨.issued, 0, 6, 0, 1, some 88, some 1, 0, 30041, 5⟩
    (after (.memoryResponse 0x0314 .good [1, 2]) s).translation = s.translation := by decide +kernel

/-- R108: the response that is ready leaves with its words; its entry is FREE. -/
theorem test_departure :
    let s := after (.carrierWindowRead ⟨7, 5, 0x0080_0000, 2⟩) State.reset
    let t := after .responseDeparture s
    t.outputs.responses = [⟨7, 5, .ok, [0, 0]⟩] ∧ (t.parent 0).state = .free ∧ t.sourceList 7 = [] := by decide +kernel

/-- R105: a PASS read of length 0 is forwarded with the address and length given. -/
theorem test_passRead_malformed :
    let t := after (.passRead ⟨7, 5, 0x0088_0013, 0⟩) State.reset
    t.mQueue.drop 2 = [.read .forwarded 0x0100 0x0088_0013 0] ∧ (t.parent 0).words = [] := by decide +kernel

/-- R139: nine words from position 0 are too many; status ERROR, no words, MALFORMED-REQUEST with priority 5. -/
theorem test_malformed :
    let t := after (.carrierWindowRead ⟨7, 5, 0x0081_6000, 9⟩) groomed
    (t.parent 0).status = .error ∧ (t.parent 0).words = [] ∧ t.events.shadow = [5] ∧
      (t.carrier 2).page = some 5 := by decide +kernel

/-! ## The channel (Chapter 8) -/

/-- Figure 8-4, row 5: a stray write queues its event record and W, and nothing else. -/
theorem test_stray_figure8_4 :
    let s := { State.reset with mQueue := [], events := { EventWriter.reset with written := 40, taken := 40 } }
    let t := after (.strayWrite ⟨9, 0x0080_8010, 0, 0xFFFF⟩) s
    t.events.written = 41 ∧ (t.mQueue.map fun r => match r with
      | .write .own _ a _ _ => some a
      | _ => none) = [some 0x0089_0500, some 0x0089_0510, some 0x0088_0020] := by decide +kernel

/-- R134: the thirty-third forwarded write is held; the one that follows the taking of a forwarded write goes on. -/
theorem test_heldWrite :
    let w : UWrite := ⟨0, 0x0088_8280, 7, 0xFFFF⟩
    let s := { State.reset with mQueue := List.replicate 32 (.write .forwarded 0 0x0088_8280 7 0xFFFF) }
    let t := after (.passWrite w) s
    let u := after .heldWriteReoffer (after .mSideRequestTaken t)
    t.channel.waiting = [⟨.write w, false⟩] ∧ t.mQueue.length = 32 ∧ u.channel.waiting = [] ∧ u.mQueue.length = 32 := by
  decide +kernel

/-- R99: a held read is offered again once a response has left. -/
theorem test_heldRead :
    let p := { Parent.reset with state := .opened, source := 3 }
    let s := { State.reset with translation := { Translation.reset with
      parents := (Vector.replicate 32 p).set 4 { p with state := .complete, source := 2 }
      lists := (Vector.replicate 16 []).set 2 [4]
      ready := [4] } }
    let t := after (.passRead ⟨7, 5, 0x0088_0010, 1⟩) s
    let u := after .heldReadReoffer (after .responseDeparture t)
    t.channel = ⟨[⟨.read ⟨7, 5, 0x0088_0010, 1⟩, true⟩], false⟩ ∧ u.channel.waiting = [] ∧ (u.parent 4).source = 7 := by
  decide +kernel

/-! ## The command ring (Chapters 9 and 12) -/

/-- The state of Figure 9-6 before row 1: P and D both 10. -/
def ringAtTen : State :=
  { State.reset with mQueue := [], processor := { Processor.reset with post := 10, done := 10 } }

/-- Figure 9-6, row 1: count 13 is taken and record 10 fetched at 0x0088_8500. -/
theorem test_post_figure9_6 :
    let t := after (.postWordWrite ⟨0, 0x0088_0000, 13, 0x0003⟩) ringAtTen
    t.processor.post = 13 ∧ t.processor.phase = .fetching ∧
      t.mQueue.drop 1 = [.read .own 0x0500 0x0088_8500 8] := by decide +kernel

/-- Figure 9-6, row 3: count 300 against D 11 is rejected (priority 6). -/
theorem test_postRejected_figure9_6 :
    let t := after (.postWordWrite ⟨0, 0x0088_0000, 300, 0xFFFF⟩) { ringAtTen with processor :=
      { Processor.reset with post := 13, done := 11, phase := .fetching } }
    t.processor.post = 13 ∧ t.events.shadow = [6] := by decide +kernel

/-- Figure 9-6, row 2: enter margin 900 and leave margin 1000 both become 768; the reply carries 6, 3, 4, fill 0, 768, 768. -/
theorem test_setLimits_figure9_6 :
    let t := after (.setLimits ⟨false, false, false, true, true, false, 0, 0, 0, 0, 900, 1000⟩) (fetching State.reset)
    t.processor.limits = { Limits.reset with enter := 768, leave := 768 } ∧
      replyBytes 8 t = [6, 3, 4, 0, 0, 3, 0, 3] := by decide +kernel

/-- Figure 9-6, row 4: a code that names no command: BAD-CODE and zero reply data. -/
theorem test_badCode_figure9_6 :
    let t := after (.badCode 0x99) (fetching State.reset)
    t.processor.done = 1 ∧ t.mQueue.drop 2 = [ownWrite 0x0088_8050 0x10, ownWrite 0x0088_8060 0,
      ownWrite 0x0088_8070 0, ownWrite 0x0088_0010 1] := by decide +kernel

/-- Figure 9-6, row 5: the fetch expires; FETCH-ERROR; D reaches P and the processor is IDLE. -/
theorem test_fetchExpiry_figure9_6 :
    let s := fetching State.reset
    let t := after .fetchExpiry { s with response := { s.response with microseconds := 6 } }
    t.processor.phase = .idle ∧ t.processor.done = 1 ∧ t.response.fetch.issued = false ∧
      t.mQueue.drop 2 = [ownWrite 0x0088_8050 0x20, ownWrite 0x0088_8060 0, ownWrite 0x0088_8070 0,
        ownWrite 0x0088_0010 1] := by decide +kernel

/-- The bytes of an ATTACH record, from Figures 12-3 and 12-6: tributary 300, width 8, target lag 3, fill 0x55. -/
theorem test_record_attach :
    Command.ofRecord ([0x01, 0, 0x2C, 0x01, 0, 8, 3, 0x55] ++ List.replicate 120 0) = .attach 300 8 3 0x55 := by decide

/-- PLACE of t55 on carrier 2 with PICK and SCATTER, bits 0 and 1 of byte 1 (Figure 12-4). -/
theorem test_record_place :
    Command.ofRecord ([0x10, 3, 55, 0, 2, 0, 0, 0] ++ List.replicate 120 0)
      = .place 55 2 true true (List.replicate 64 0) := by decide

/-- SET-LIMITS of Figure 9-6: flag bits 3 and 4; 900 and 1000 at bytes 12 and 14 (Figure 12-5). -/
theorem test_record_setLimits :
    Command.ofRecord ([0x30, 0x18, 0, 0, 0, 0, 0, 0, 0, 0, 0, 0, 0x84, 0x03, 0xE8, 0x03] ++ List.replicate 112 0)
      = .setLimits ⟨false, false, false, true, true, false, 0, 0, 0, 0, 900, 1000⟩ := by decide

/-- SET-MONITOR of counter 2 in section 11.5, by Figures 12-5 and 12-8. -/
theorem test_record_setMonitor :
    Command.ofRecord ([0x50, 0, 0, 0, 0, 0, 0, 0, 2, 0x06, 5, 0, 0x42, 0, 0, 0, 0x4, 0xC, 0, 0, 0, 0,
        0xFD, 0xFF, 0xFF, 0xFF, 0xFF, 0xFF] ++ List.replicate 100 0)
      = .setMonitor ⟨2, 0x06, true, false, true, 0x42, 0x4, 0xC, 0, 0, 0xFFFFFFFFFFFD⟩ := by decide

/-- The fetch of record 0 answered GOOD with a QUERY-CARRIER of carrier 2 from position 30 (Figures 12-3, 12-6, 12-9):
ON, page 5, cycles 0, generation 30, cost 5, limit 240, mapped 15, then the entries of positions 30 and 31. -/
theorem test_queryCarrier_fetched :
    let record : Record := [0x41, 0, 0, 0, 2, 0, 0, 0, 30] ++ List.replicate 119 0
    let t := after (.memoryResponse 0x0500 .good (wordsOfBytes 8 record)) (fetching groomed)
    replyBytes 18 t = [1, 5, 0, 0, 0, 0, 30, 0, 5, 240, 15, 30, 9, 0, 1, 0xFF, 0xFF, 0xFF] := by decide +kernel

/-- QUERY-TRIBUTARY of t9 (Figures 12-9 and 12-10). -/
theorem test_queryTributary :
    replyBytes 14 (after (.queryTributary 9) (fetching groomed))
      = [2, 2, 3, 0x7E, 0x9E, 0x08, 0, 0, 0, 0, 0, 0, 0, 0] := by decide +kernel

/-- R158: CLEAR-TABLES leaves t40, with a read in flight, RETIRING, and raises the generation. -/
theorem test_clearTables :
    let t := after .clearTables (fetching cut)
    (t.trib 40).state = .retiring ∧ (t.trib 17).state = .free ∧ (t.carrier 2).generation = 31 ∧
      (t.carrier 2).on = false ∧ replyBytes 1 t = [2] := by decide +kernel

/-! ## Events and monitor (Chapters 10 and 11) -/

/-- The event writer of section 10.9 with a shorter list: the bookkeeping of Figure 10-4 at one untaken record, which is a 5. -/
theorem test_take_notice :
    let s := { State.reset with events := { EventWriter.reset with
      written := 65001, taken := 65000, shadow := [5], threshold := 3, notice := true } }
    let t := after (.takeWordWrite ⟨0, 0x0088_0030, 65001, 0xFFFF⟩) s
    t.events.taken = 65001 ∧ t.events.shadow = [] ∧ t.events.notice = false := by decide +kernel

/-- Figure 10-4, row 3: with the ring full a LAG-CENTRED is lost: only the lost count rises. -/
theorem test_lost_figure10_4 :
    let s := { State.reset with events := { EventWriter.reset with written := 488, taken := 65000, lost := 1 } }
    (s.raise (.lagCentred 9 2 648 3 3)).events = { s.events with lost := 2 } := by decide +kernel

/-- Figure 10-4, row 5: the MARK record at index 488 carries lost count 2; the reply carries the value and W 489. -/
theorem test_mark_figure10_4 :
    let s := { fetching State.reset with events := { EventWriter.reset with written := 488, taken := 65100, lost := 2 } }
    let t := after (.mark 0xCAFE) s
    t.events.written = 489 ∧ t.events.lost = 0 ∧ (t.mQueue.drop 2).take 1 =
      [ownWrite 0x0089_3D00 0x0000CAFE_00000000_0000FFFF_FF020030] := by decide +kernel

/-- R170: SET-NOTICE of SLIP with priority 9 and threshold 2: the reply shows 3 before and 7 after. -/
theorem test_setNotice :
    let t := after (.setNotice ⟨true, 0x03, 1, 9, 2⟩) (fetching State.reset)
    t.events.threshold = 2 ∧ t.events.setting .slip = ⟨true, 7⟩ ∧
      replyBytes 9 t = [0x03, 1, 3, 1, 7, 2, 0, 0, 0] := by decide +kernel

/-- Counter 2 of section 11.5. -/
def counterTwo : Counter :=
  { Counter.reset with
    source := some .slips, carrierFilter := true, carrierMatch := 0x4, carrierMask := 0xC, report := true, note := 0x42,
    count := 0xFFFFFFFFFFFD }

/-- Figure 11-3, rows 1, 2 and 6: carriers 5 and 9 against mask 0xC and match 0x4; the wrap to 0 with its report. -/
theorem test_monitor_figure11_3 :
    let s := State.reset.setCounter 2 counterTwo
    let u := State.reset.setCounter 2 { counterTwo with count := 0xFFFFFFFFFFFF }
    ((s.report ⟨.slips, 1, some 5, some 9⟩).counter 2).count = 0xFFFFFFFFFFFE ∧
      ((s.report ⟨.slips, 1, some 9, some 61⟩).counter 2).count = 0xFFFFFFFFFFFD ∧
      ((u.report ⟨.slips, 1, some 4, some 412⟩).counter 2).count = 0 ∧
      (u.report ⟨.slips, 1, some 4, some 412⟩).events.shadow = [3] := by decide +kernel

/-- Section 11.5: READ-MONITOR of counter 2 (Figure 12-9). -/
theorem test_readMonitor :
    replyBytes 22 (after (.readMonitor 2) (fetching (State.reset.setCounter 2 counterTwo)))
      = [2, 0x06, 5, 0x4, 0xC, 0, 0, 0, 0, 0, 0, 0, 0x42, 0, 0, 0, 0xFD, 0xFF, 0xFF, 0xFF, 0xFF, 0xFF] := by
  decide +kernel

/-- R178, R180: a locked counter keeps its settings, and a second LOCK-MONITOR is refused LOCKED. -/
theorem test_locked :
    let s := fetching (State.reset.setCounter 2 { counterTwo with lock := true })
    (after (.setMonitor ⟨2, 0x01, false, false, false, 0, 0, 0, 0, 0, 0⟩) s).monitor = s.monitor ∧
      (after (.lockMonitor 2) s).monitor = s.monitor := by decide +kernel

/-- R130: hardware reset inverts the epoch and queues the two writes of 0. -/
theorem test_reset :
    let t := after .hardwareReset cut
    t.response.epoch = true ∧ t.mQueue = [ownWrite 0x0088_0010 0, ownWrite 0x0088_0020 0] ∧ (t.sub 0).state = .free := by
  decide +kernel

/-- R114: the count wraps at 2^32. -/
theorem test_microsecond_wrap :
    (after .microsecondCountAdvance { State.reset with response :=
      { State.reset.response with microseconds := 0xFFFFFFFF } }).response.microseconds = 0 := by decide +kernel

/-! ## Witnesses: states and operands that meet the hypotheses of each statement -/

/-- `n` forwarded writes in the M-side queue. -/
def queued (n : Nat) : State :=
  { State.reset with mQueue := List.replicate n (.write .forwarded 0 0x0088_8280 7 0xFFFF) }

theorem witness_StepExecutesFrontCommand :
    { State.reset with pending := [.clearTables, .mark 5] }.pending = Instr.clearTables :: [.mark 5] ∧
      State.reset.pending = [] := ⟨rfl, rfl⟩

/-- The last address of the frame store, and room for one forwarded write. -/
theorem witness_PassWriteForwarded :
    (Instr.passWrite ⟨5, 0xFFFF_FFF0, 7, 0x8000⟩).wellFormed = true ∧ (queued 31).channel.waiting = [] ∧
      (queued 31).forwardedWrites < 32 := by decide +kernel

/-- A write to tributary 200 at a slot of page 7, with flag 15 set or clear. -/
def slotWrite (slot : Nat) (enables : BitVec 16) : UWrite :=
  ⟨3, BitVec.ofNat 32 (200 * 0x2000 + 0x1C00 + slot * 0x10), 0xAB, enables⟩

/-- Tributary 200, of width 3, in a given state, with 31 forwarded writes queued. -/
def ingress (state : TribState) (iw : BitVec 16) : State := (queued 31).setTrib 200 (t200 state iw 65535 65535 false)

/-- A write to a RETIRING tributary; a body write to slot 1; a partial last write to slot 2; strays to slots 3 and 63. -/
theorem witness_TributaryWriteWithoutCompletion :
    (∀ w ∈ [slotWrite 0 0xFFFF, slotWrite 1 0xFFFF, slotWrite 2 0x7FFF, slotWrite 3 0xFFFF, slotWrite 63 1],
      (Instr.tributaryRegionWrite w).wellFormed = true ∧ tribOf w.address = 200) ∧
    (∀ state ∈ [TribState.retiring, .idle, .active, .silent],
      (ingress state 0).channel.waiting = [] ∧ (ingress state 0).forwardedWrites < 32 ∧
        ((ingress state 0).trib 200).state = state ∧ ((ingress state 0).trib 200).width = 3) ∧
    slotOf (slotWrite 1 0xFFFF).address + 1 < 3 ∧ slotOf (slotWrite 2 0x7FFF).address + 1 = 3 ∧
    (slotWrite 2 0x7FFF).enables.getLsbD 15 = false ∧ 3 ≤ slotOf (slotWrite 3 0xFFFF).address ∧
    3 ≤ slotOf (slotWrite 63 1).address := by decide +kernel

/-- Page 7 completed: expected at IW 65535, 1 page skipped at IW 6, 7 pages skipped at IW 0, a restoration from SILENT. -/
theorem witness_PageCompletionAdvancesIngressCount :
    let w := slotWrite 2 0x8000
    (Instr.tributaryRegionWrite w).wellFormed = true ∧ tribOf w.address = 200 ∧ slotOf w.address + 1 = 3 ∧
      w.enables.getLsbD 15 = true ∧ pageOf w.address = 7 ∧
      (∀ p ∈ [(TribState.idle, (65535 : BitVec 16), 0), (.active, 6, 1), (.active, 0, 7), (.silent, 0, 7)],
        let s := ingress p.1 p.2.1
        s.channel.waiting = [] ∧ s.forwardedWrites < 32 ∧ (s.trib 200).state = p.1 ∧ (s.trib 200).width = 3 ∧
          ((pageOf w.address).toNat + 8 - (s.trib 200).iw.toNat % 8) % 8 = p.2.2) := by decide +kernel

/-- A state with D 65535 and a given P in a given processor state. -/
def posted (post : BitVec 16) (phase : Phase) : State :=
  { queued 31 with processor := { Processor.reset with post := post, done := 65535, phase := phase } }

/-- From IDLE: a count of D itself, one of D + 256, and one of D + 257 that is rejected; with a command in progress: D + 1
is taken and D rejected. -/
theorem witness_PostCountTakenOrRejected :
    (∀ n ∈ [65535, 255, 256, 0],
      (Instr.postWordWrite ⟨0, 0x0088_0000, BitVec.ofNat 128 n, 0x0003⟩).wellFormed = true ∧
        BitVec.extractLsb' 0 16 (BitVec.ofNat 128 n) = BitVec.ofNat 16 n) ∧
    (posted 65535 .idle).channel.waiting = [] ∧ (posted 65535 .idle).forwardedWrites < 32 ∧
    (posted 0 .waitingApply).channel.waiting = [] ∧ (posted 0 .waitingApply).forwardedWrites < 32 ∧
    ((65535 : BitVec 16) - (posted 65535 .idle).processor.done).toNat = 0 ∧
    ((255 : BitVec 16) - (posted 65535 .idle).processor.done).toNat = 256 ∧
    ((256 : BitVec 16) - (posted 65535 .idle).processor.done).toNat = 257 ∧
    ((0 : BitVec 16) - (posted 0 .waitingApply).processor.done).toNat = 1 ∧
    ((65535 : BitVec 16) - (posted 0 .waitingApply).processor.done).toNat = 0 := by decide +kernel

/-- Two untaken records. -/
def twoUntaken : State :=
  { queued 31 with events := { EventWriter.reset with written := 1, taken := 65535, shadow := [5, 3] } }

/-- Of two untaken records a take of none and one of both are taken, a take of three ignored. -/
theorem witness_TakeCountTakenOrIgnored :
    (∀ n ∈ [65535, 1, 2],
      (Instr.takeWordWrite ⟨0, 0x0088_0030, BitVec.ofNat 128 n, 0xFFFF⟩).wellFormed = true ∧
        BitVec.extractLsb' 0 16 (BitVec.ofNat 128 n) = BitVec.ofNat 16 n) ∧
    twoUntaken.channel.waiting = [] ∧ twoUntaken.forwardedWrites < 32 ∧
    (twoUntaken.events.written - twoUntaken.events.taken).toNat = 2 ∧
    ((65535 : BitVec 16) - twoUntaken.events.taken).toNat = 0 ∧
    ((1 : BitVec 16) - twoUntaken.events.taken).toNat = 2 ∧
    ((2 : BitVec 16) - twoUntaken.events.taken).toNat = 3 := by decide +kernel

/-- The first and the last word of the window; 40 forwarded writes in the queue do not matter; the kind disabled. -/
theorem witness_StrayWriteDropped :
    (Instr.strayWrite ⟨9, 0x0080_0000, 0, 0xFFFF⟩).wellFormed = true ∧
      (Instr.strayWrite ⟨9, 0x0087_FFF0, 0, 0⟩).wellFormed = true ∧ (queued 40).channel.waiting = [] ∧
      (({ queued 40 with events := { EventWriter.reset with kinds := defaultKinds.set 11 ⟨false, 4⟩ } } : State).events.setting
        .strayWrite).enabled = false := by decide +kernel

/-- A part whose only FREE sub-read entry is 63. -/
def oneSubFree (s : State) : State :=
  { s with translation := { s.translation with
    subReads := (Vector.replicate 64 { SubRead.reset with state := .issued }).set 63 .reset } }

/-- A part with no FREE sub-read entry. -/
def noSubFree (s : State) : State :=
  { s with translation := { s.translation with subReads := Vector.replicate 64 { SubRead.reset with state := .issued } } }

/-- A part with no FREE parent entry. -/
def noParentFree (s : State) : State :=
  { s with translation := { s.translation with parents := Vector.replicate 32 { Parent.reset with state := .opened } } }

/-- A waiting head; a full queue; a full parent table; a full sub-read table for a PASS read; one FREE sub-read entry for the
two pieces of Figure 6-4, under the current page 5 and after a cycle start to page 6. -/
theorem witness_RequestHeldOnChannel :
    let w : UWrite := ⟨0, 0x0088_8280, 7, 0xFFFF⟩
    let s := { State.reset with channel := ⟨[⟨.write w, false⟩], false⟩ }
    s.channel.waiting = ⟨.write w, false⟩ :: [] ∧ region w.address ≠ .window ∧ (queued 32).channel.waiting = [] ∧
      32 ≤ (queued 32).forwardedWrites ∧
      (noParentFree groomed).channel.waiting = [] ∧ (∀ i : Fin 32, ((noParentFree groomed).parent i).state ≠ .free) ∧
      (noSubFree groomed).channel.waiting = [] ∧ ((noSubFree groomed).parent 0).state = .free ∧ region 0x0088_0010 ≠ .window ∧
      (∀ k : Fin 64, ((noSubFree groomed).sub k).state ≠ .free) ∧
      ∀ r ∈ [(⟨4, 19, 0x0081_5100, 8⟩ : URead), ⟨4, 19, 0x0081_6100, 8⟩],
        let o := oneSubFree groomed
        o.channel.waiting = [] ∧ (o.parent 0).state = .free ∧ region r.address = .window ∧
          wellFormedRead r.address r.length = true ∧ windowPosition r.address < 240 ∧
          (o.carrier (windowCarrier r.address)).on = true ∧
          (o.whenOffered r).freeSubs.length < (cutPieces 0 ((o.whenOffered r).wordKinds r)).length := by
  decide +kernel

/-! ### Reads -/

/-- A COMPLETE parent entry of source 3. -/
def completeParent : Parent :=
  { Parent.reset with
    state := .complete, source := 3, tag := 9, address := 0x0080_0000, length := 1, cls := .offCarrier,
    carrier := some 0, words := [some 0] }

/-- Parent entry 0 holds a response of source 3 that is ready. -/
def oneReady : Translation :=
  { Translation.reset with
    parents := tabulate fun i => if i = 0 then completeParent else .reset
    lists := tabulate fun src => if src = 3 then [0] else []
    ready := [0] }

theorem oneReady_lists : oneReady.ListsSound where
  nodup := by decide +kernel
  held := by
    intro src i
    simp only [oneReady, tabulate_get]
    by_cases hi : i = 0 <;> by_cases hs : src = 3 <;> simp [hi, hs, completeParent, Parent.reset, eq_comm]
  readyNodup := by decide
  ready := by
    intro i
    simp only [oneReady, tabulate_get]
    by_cases hi : i = 0 <;> simp [hi, completeParent, Parent.reset]

/-- The groomed part with one response ready and entry 0 of the sub-reads EXPIRED. -/
def serving : State :=
  { groomed with translation := { oneReady with
    subReads := oneReady.subReads.set 0 { SubRead.reset with state := .expired } } }

theorem serving_lists : serving.translation.ListsSound :=
  ⟨oneReady_lists.nodup, oneReady_lists.held, oneReady_lists.readyNodup, oneReady_lists.ready⟩

/-- The lowest FREE parent entry is 1, the lowest FREE sub-read entry is 1, the channel is empty. -/
theorem serving_free :
    serving.channel.waiting = [] ∧ (serving.parent 1).state = .free ∧ (∀ j : Fin 32, j < 1 → (serving.parent j).state ≠ .free) ∧
      (serving.sub 1).state = .free ∧ (∀ l : Fin 64, l < 1 → (serving.sub l).state ≠ .free) := by decide +kernel

/-- Carrier 3 is OFF; position 239 is the last payload position. -/
theorem witness_OffCarrierReadFilled :
    let r : URead := ⟨4, 7, 0x0081_8EF0, 1⟩
    serving.translation.ListsSound ∧ serving.channel.waiting = [] ∧ region r.address = .window ∧
      wellFormedRead r.address r.length = true ∧ windowPosition r.address < 240 ∧
      (serving.carrier (windowCarrier r.address)).on = false ∧ (serving.parent 1).state = .free ∧
      (∀ j : Fin 32, j < 1 → (serving.parent j).state ≠ .free) :=
  ⟨serving_lists, by decide +kernel⟩

/-- Position 240 of carrier 2, ON with current page 5, with page fields 5 and 6, and position 255 of carrier 3, OFF. -/
theorem witness_OverheadReadAnswered :
    serving.translation.ListsSound ∧ serving.channel.waiting = [] ∧
      (∀ r ∈ [(⟨4, 7, 0x0081_5F00, 8⟩ : URead), ⟨4, 7, 0x0081_6F00, 8⟩, ⟨4, 7, 0x0081_8FF0, 1⟩],
        region r.address = .window ∧ wellFormedRead r.address r.length = true ∧ 240 ≤ windowPosition r.address) ∧
      CallsForCycleStart serving ⟨4, 7, 0x0081_6F00, 8⟩ ∧
      (serving.parent 1).state = .free ∧ (∀ j : Fin 32, j < 1 → (serving.parent j).state ≠ .free) :=
  ⟨serving_lists, by decide +kernel⟩

/-- Length 0, length 9, an address off the word, a range over a block's end. -/
theorem witness_MalformedReadAnsweredWithError :
    serving.translation.ListsSound ∧ serving.channel.waiting = [] ∧
      (∀ r ∈ [(⟨4, 7, 0x0081_5100, 0⟩ : URead), ⟨4, 7, 0x0081_5100, 9⟩, ⟨4, 7, 0x0081_5101, 1⟩, ⟨4, 7, 0x0081_5110, 8⟩],
        region r.address = .window ∧ wellFormedRead r.address r.length = false) ∧
      (serving.parent 1).state = .free ∧ (∀ j : Fin 32, j < 1 → (serving.parent j).state ≠ .free) :=
  ⟨serving_lists, by decide +kernel⟩

/-- A well-formed read of the control region, and a malformed one of a tributary buffer. -/
theorem witness_PassReadForwarded :
    serving.translation.ListsSound ∧ serving.channel.waiting = [] ∧
      region 0x0088_0010 ≠ .window ∧ wellFormedRead 0x0088_0010 1 = true ∧
      region 0x007F_FFF1 ≠ .window ∧ wellFormedRead 0x007F_FFF1 0 = false ∧
      (serving.parent 1).state = .free ∧ (∀ j : Fin 32, j < 1 → (serving.parent j).state ≠ .free) ∧
      (serving.sub 1).state = .free ∧ (∀ l : Fin 64, l < 1 → (serving.sub l).state ≠ .free) :=
  ⟨serving_lists, by decide +kernel⟩

/-- `serving` with t9 SILENT. -/
def servingAlarm : State := serving.setTrib 9 { serving.trib 9 with state := .silent }

/-- The read of Figure 6-4 in two pieces, under the current page and at a cycle start to page 6; with t9 SILENT in one piece,
four words UNASSIGNED and one under ALARM; and positions 32 to 39, which need no piece. -/
theorem witness_TranslatedReadCut :
    serving.translation.ListsSound ∧ servingAlarm.translation.ListsSound ∧ serving.channel.waiting = [] ∧
      (∀ q ∈ [(serving, (⟨4, 19, 0x0081_5100, 8⟩ : URead), 2), (serving, ⟨4, 19, 0x0081_6100, 8⟩, 2),
          (servingAlarm, ⟨4, 19, 0x0081_5100, 8⟩, 1), (serving, ⟨4, 19, 0x0081_5200, 8⟩, 0)],
        let (s, r, n) := q
        s.channel.waiting = [] ∧
        region r.address = .window ∧ wellFormedRead r.address r.length = true ∧ windowPosition r.address < 240 ∧
          (s.carrier (windowCarrier r.address)).on = true ∧
          (cutPieces 0 ((s.whenOffered r).wordKinds r)).length = n ∧ n ≤ (s.whenOffered r).freeSubs.length ∧
          (s.parent 1).state = .free ∧ (∀ j : Fin 32, j < 1 → (s.parent j).state ≠ .free)) ∧
      CallsForCycleStart serving ⟨4, 19, 0x0081_6100, 8⟩ ∧
      .alarm 9 ∈ servingAlarm.wordKinds ⟨4, 19, 0x0081_5100, 8⟩ ∧
      .unassigned ∈ servingAlarm.wordKinds ⟨4, 19, 0x0081_5100, 8⟩ :=
  ⟨serving_lists, serving_lists, by decide +kernel⟩

/-- The kinds of Figure 6-4: slots 8 and 9 of t40 may share a piece, slots 7 and 8 may not. -/
theorem witness_PiecesCoverReadPositions :
    let kinds := [WordKind.read 40 8 1, .read 40 9 1, .unassigned, .alarm 9]
    (∀ t slot slot' page page', .read t slot page ∈ kinds → .read t slot' page' ∈ kinds → page = page') ∧
      kinds[0]? = some (.read 40 8 1) ∧ kinds[0 + 1]? = some (.read 40 (8 + 1) 1) ∧ (8 + 1) % 8 ≠ 0 ∧
      [WordKind.read 40 7 1, .read 40 8 1][0 + 1]? = some (.read 40 (7 + 1) 1) ∧ (7 + 1) % 8 = 0 := by
  refine ⟨?_, rfl, rfl, by decide, rfl, rfl⟩
  simp only [List.mem_cons, WordKind.read.injEq, List.not_mem_nil, reduceCtorEq, or_false]
  rintro t slot slot' page page' (⟨-, -, rfl⟩ | ⟨-, -, rfl⟩) (⟨-, -, rfl⟩ | ⟨-, -, rfl⟩) <;> rfl

/-- Carrier 2 with a REGROOM of t9 to 18 and 19 pending. -/
def regrooming : State :=
  { serving.setCarrier 2 { carrierTwo with pendingFlag := true } with
    change := some ⟨.regroom, 9, 2, [18, 19], 7048⟩
    processor := { Processor.reset with
      post := 1, phase := .waitingApply, command := some (Command.regroom 9 2 true false (List.replicate 64 0)).record } }

/-- Carrier 2 with a PLACE of t55, width 2, at 24 and 25 pending. -/
def placing : State :=
  { (serving.setCarrier 2 { carrierTwo with pendingFlag := true }).setTrib 55 (tributary .idle 2 3 0x11 600 []) with
    change := some ⟨.place, 55, 2, [24, 25], 7048⟩
    processor := { Processor.reset with
      post := 1, phase := .waitingApply, command := some (Command.place 55 2 false false [24, 25]).record } }

/-- A change of carrier 3 pending. -/
def pendingElsewhere : State :=
  { serving with change := some ⟨.unplace, 9, 3, [], 7048⟩ }

theorem regrooming_sound : regrooming.ProcessorSound := by
  refine ⟨by decide, ?_, by decide, by decide, by decide, by decide, by decide, by decide +kernel⟩
  constructor <;> decide

/-- Page field 6 is new to carrier 2: with no change pending, with a REGROOM or a PLACE pending in it, with a change elsewhere. -/
theorem witness_NewPageFieldTakesCycleStart :
    let r : URead := ⟨4, 19, 0x0081_6100, 8⟩
    regrooming.ProcessorSound ∧
    (∀ s ∈ [serving, regrooming, placing, pendingElsewhere], s.channel.waiting = [] ∧
      (s.carrier (windowCarrier r.address)).on = true ∧
      (s.carrier (windowCarrier r.address)).page ≠ some (windowPage r.address) ∧ (s.parent 1).state = .free) ∧
    region r.address = .window ∧ wellFormedRead r.address r.length = true ∧ windowCarrier r.address = 2 ∧
    serving.change = none ∧ regrooming.change.map (·.carrier) = some 2 ∧ placing.change.map (·.carrier) = some 2 ∧
    pendingElsewhere.change.map (·.carrier) = some 3 ∧
    (regrooming.trib 9).placementIn 2 ≠ none ∧ (regrooming.trib 8).placementIn 2 = none :=
  ⟨regrooming_sound, by decide +kernel⟩

/-- No tributary of `groomed` has two placements in one carrier. -/
theorem groomed_distinct (x : TribId) : ((groomed.trib x).placements.map (·.carrier)).Nodup := by
  simp only [groomed, State.trib, State.setTrib, State.setCarrier, State.reset, Fin.getElem_fin, Vector.getElem_set,
    Vector.getElem_replicate]
  split_ifs <;> decide

/-- With no change pending, and with a REGROOM and a PLACE of the carrier. -/
theorem witness_CycleStartWritesIndications :
    ∀ s ∈ [serving, regrooming, placing],
      let before := fun x : TribId => match s.change with
        | some ch => if ch.carrier = 2 ∧ ch.trib = x then (s.trib x).applied ch.kind 2 .cycleStart else s.trib x
        | none => s.trib x
      ∀ x, ((before x).placements.map (·.carrier)).Nodup := by
  intro s hs before x
  simp only [List.mem_cons, List.not_mem_nil, or_false] at hs
  obtain rfl | rfl | rfl := hs
  · exact groomed_distinct x
  · show ((if (2 : CarrierId) = 2 ∧ 9 = x then (groomed.trib x).applied .regroom 2 .cycleStart else groomed.trib x).placements.map
      (·.carrier)).Nodup
    split
    · exact groomed_distinct x
    · exact groomed_distinct x
  · show ((if (2 : CarrierId) = 2 ∧ 55 = x then (placing.trib x).applied .place 2 .cycleStart else placing.trib x).placements.map
      (·.carrier)).Nodup
    split
    · next h => obtain rfl := h.2; decide +kernel
    · next h =>
      have hx : placing.trib x = groomed.trib x := Vector.getElem_set_ne (by decide) x.isLt fun h' => h ⟨rfl, Fin.ext h'⟩
      rw [hx]
      exact groomed_distinct x

/-- A read at the head of the channel that has waited, a write behind it; with entries enough; with every parent entry taken;
with one FREE sub-read entry for two pieces, under the current page and at a cycle start; not due. -/
theorem witness_HeldReadReoffered :
    let w : UWrite := ⟨0, 0x0088_8280, 7, 0xFFFF⟩
    ∀ r ∈ [(⟨4, 19, 0x0081_5100, 8⟩ : URead), ⟨4, 19, 0x0081_6100, 8⟩],
      let held := fun s : State => { s with channel := ⟨[⟨.read r, true⟩, ⟨.write w, false⟩], true⟩ }
      (held serving).channel.waiting = ⟨.read r, true⟩ :: [⟨.write w, false⟩] ∧ (held serving).channel.reofferDue = true ∧
        ((held serving).parent 1).state = .free ∧ region r.address = .window ∧
        (cutPieces 0 (((held serving).whenOffered r).wordKinds r)).length ≤ ((held serving).whenOffered r).freeSubs.length ∧
        (∀ i : Fin 32, ((held (noParentFree groomed)).parent i).state ≠ .free) ∧
        ((held (oneSubFree groomed)).parent 0).state = .free ∧
        ((held (oneSubFree groomed)).whenOffered r).freeSubs.length <
          (cutPieces 0 (((held (oneSubFree groomed)).whenOffered r).wordKinds r)).length ∧
        ({ held serving with channel := ⟨[⟨.read r, true⟩], false⟩ } : State).channel.reofferDue = false := by
  decide +kernel

/-- A held write with a read behind it: with room for one forwarded write, with the queue full, and not due. -/
theorem witness_HeldWriteReoffered :
    let w : UWrite := ⟨0, 0x0088_8280, 7, 0xFFFF⟩
    let rest : List Held := [⟨.read ⟨7, 5, 0x0088_0010, 1⟩, false⟩]
    let held := fun n : Nat => { queued n with channel := ⟨⟨.write w, false⟩ :: rest, true⟩ }
    (held 31).channel.waiting = ⟨.write w, false⟩ :: rest ∧ region w.address ≠ .window ∧
      (held 31).channel.reofferDue = true ∧ (held 31).forwardedWrites < 32 ∧ 32 ≤ (held 32).forwardedWrites ∧
      ({ held 31 with channel := ⟨⟨.write w, false⟩ :: rest, false⟩ } : State).channel.reofferDue = false := by
  decide +kernel

theorem witness_MSideTakesFrontRequest :
    State.reset.mQueue = ownWrite doneWordAddr (controlWord 0) :: [ownWrite eventWordAddr (controlWord 0)] := rfl

/-! ### Memory responses -/

/-- Tags of another epoch, of a FREE fetch entry, of a wrong fetch generation, of entry 1 in the fetch pool, of an entry
above 63, of a FREE entry, of a wrong generation. -/
theorem witness_StaleResponseDiscarded :
    (0x0900 : BitVec 16).getLsbD 11 ≠ cut.response.epoch ∧
      ((0x0500 : BitVec 16).getLsbD 10 = true ∧ cut.response.fetch.issued = false) ∧
      ((0x0600 : BitVec 16).getLsbD 10 = true ∧
        (fetching cut).response.fetch.generation ≠ (0x0600 : BitVec 16).extractLsb' 8 2) ∧
      ((0x0501 : BitVec 16).getLsbD 10 = true ∧ ((0x0501 : BitVec 16).extractLsb' 0 8).toNat ≠ 0) ∧
      ((0x0140 : BitVec 16).getLsbD 10 = false ∧ 63 < ((0x0140 : BitVec 16).extractLsb' 0 8).toNat) ∧
      ((0x0102 : BitVec 16).getLsbD 10 = false ∧ ((0x0102 : BitVec 16).extractLsb' 0 8).toNat = 2 ∧
        (cut.sub 2).state = .free) ∧
      ((0x0201 : BitVec 16).getLsbD 10 = false ∧ ((0x0201 : BitVec 16).extractLsb' 0 8).toNat = 1 ∧
        (cut.sub 1).generation ≠ (0x0201 : BitVec 16).extractLsb' 8 2) := by decide +kernel

/-- The part after a PASS read of length 0, which is malformed: sub-read 0 is ISSUED for it (R105). -/
def forwardedMalformed : State := after (.passRead ⟨7, 5, 0x0088_0013, 0⟩) State.reset

/-- Sub-read 0 of the malformed PASS read is answered into the parent's own store. -/
theorem forwardedMalformed_stores :
    let p := forwardedMalformed.parent (forwardedMalformed.sub 0).parent
    (forwardedMalformed.sub 0).state = .issued ∧ p.cls = .pass ∧ wellFormedRead p.address p.length = false := by
  decide +kernel

/-- Entry 1 of Figure 6-5 answered with its one word, and with a word too many; the malformed PASS read with any words. -/
theorem witness_GoodAnswerFillsParent :
    (cut.sub 1).state = .issued ∧ (cut.sub 1).length ≤ [(0xB1 : Word)].length ∧
      (cut.sub 1).length ≤ [(0xB1 : Word), 0xB2].length ∧ (cut.parent (cut.sub 1).parent).cls ≠ .pass ∧
      TagNames 0xF101 1 (cut.sub 1).generation false cut.response.epoch ∧
      (forwardedMalformed.sub 0).state = .issued ∧
      TagNames 0x0100 0 (forwardedMalformed.sub 0).generation false forwardedMalformed.response.epoch := by
  decide +kernel

/-- Entry 0 of Figure 6-5 answered FAULT, and GOOD with one word of its two; the malformed PASS read answered FAULT. -/
theorem witness_FaultAnswerRaisesError :
    (cut.sub 0).state = .issued ∧ MemResult.fault = .fault ∧ [(0xA1 : Word)].length < (cut.sub 0).length ∧
      (cut.parent (cut.sub 0).parent).cls ≠ .pass ∧
      TagNames 0xF100 0 (cut.sub 0).generation false cut.response.epoch ∧ (forwardedMalformed.sub 0).state = .issued ∧
      TagNames 0x0100 0 (forwardedMalformed.sub 0).generation false forwardedMalformed.response.epoch := by decide +kernel

/-- Entry 0 EXPIRED, issued at 7000 with interval 6: abandonment at 7048. -/
theorem witness_ExpiredEntryReleased :
    let s := cut.setSub 0 { cut.sub 0 with state := .expired }
    let s := { s with response := { s.response with microseconds := 7048 } }
    (s.sub 0).state = .expired ∧ TagNames 0xF100 0 (s.sub 0).generation false s.response.epoch ∧
      s.response.microseconds = (s.sub 0).issue + BitVec.ofNat 32 (8 * (s.sub 0).interval) := by decide +kernel

/-- t55 of width 6, and the record of a PLACE of it that lists 24 to 29, with other values in every byte and bit that the
command does not use: flag bits 2 to 7, bytes 5 to 15, the grains beyond the width, and the bytes from 80 on. -/
theorem witness_FetchAnswerRunsItsCommand :
    let s := fetching (groomed.setTrib 55 (tributary .idle 6 3 0x11 600 []))
    let c := Command.place 55 2 false false ([24, 25, 26, 27, 28, 29] ++ List.replicate 58 0)
    let record : Record := [0x10, 0xFC, 55, 0, 2] ++ List.replicate 11 0xFF ++ [24, 25, 26, 27, 28, 29] ++ List.replicate 106 0xFF
    c.wellFormed = true ∧ s.response.fetch.issued = true ∧ record.length = 128 ∧
      TagNames 0xF500 0 s.response.fetch.generation true s.response.epoch ∧
      (∀ i < 128, recByte record i &&& bitsRead s c i = recByte c.record i &&& bitsRead s c i) ∧
      (Command.badCode 0xFF).wellFormed = true := by decide +kernel

/-- A FAULT result, an answer of 7 words, and the expiry at issue time plus 6. -/
theorem witness_FetchFailureCompletesFetchError :
    (fetching State.reset).response.fetch.issued = true ∧ (List.replicate 7 (0 : Word)).length < 8 ∧
      TagNames 0xF500 0 (fetching State.reset).response.fetch.generation true (fetching State.reset).response.epoch ∧
      (let s := fetching State.reset
       let s := { s with response := { s.response with microseconds := 6 } }
       s.response.fetch.issued = true ∧
        s.response.microseconds = s.response.fetch.issue + BitVec.ofNat 32 s.response.fetch.interval) := by decide +kernel

theorem witness_ReadyResponseDeparts :
    serving.translation.ListsSound ∧ serving.translation.ready = 0 :: [] := ⟨serving_lists, rfl⟩

/-! ### Deadlines -/

/-- Carrier 2 as `groomed` has it, with t9 showing REPEAT. -/
def repeating : State :=
  groomed.setCarrier 2 { carrierTwo with indications := carrierTwo.indications.set 20 .repeated }

/-- A REGROOM with PICK, a PLACE without and an UNPLACE, each at its deadline; t9 SILENT or not, showing REPEAT or NORMAL. -/
theorem witness_DeadlineAppliesPendingChange :
    (∀ g ∈ [groomed, repeating, groomed.setTrib 9 { groomed.trib 9 with state := .silent }],
      ∀ p ∈ [((⟨.regroom, 9, 2, [18, 19], 7048⟩ : PendingChange), Command.regroom 9 2 true false (List.replicate 64 0)),
        (⟨.place, 55, 2, [24, 25, 26, 27, 28, 29], 7048⟩, .place 55 2 false false (List.replicate 64 0)),
        (⟨.unplace, 9, 2, [], 7048⟩, .unplace 9 2)],
      let s : State := { g with
        change := some p.1
        response := { State.reset.response with microseconds := 7048 }
        processor := { Processor.reset with post := 1, phase := .waitingApply, command := some p.2.record } }
      s.ProcessorSound ∧ s.change = some p.1 ∧ s.response.microseconds = p.1.deadline) ∧
    ((repeating.carrier 2).map[(20 : Fin 240)] = some ⟨9, 0⟩ ∧
      (repeating.carrier 2).indications[(20 : Fin 240)] = .repeated) ∧
    (changedMap .regroom 9 [18, 19] (groomed.carrier 2).map)[(18 : Fin 240)] = some ⟨9, 0⟩ ∧
    (changedMap .regroom 9 [18, 19] (groomed.carrier 2).map)[(20 : Fin 240)] = none := by
  refine ⟨fun g _ p hp => ?_, by decide +kernel, by decide +kernel, by decide +kernel⟩
  refine ⟨⟨by simp [Processor.reset], ?_, by simp, by simp [Processor.reset], by simp, ?_, by simp, by simp⟩, rfl, ?_⟩
  · constructor <;> simp [Processor.reset, Limits.reset]
  · simp [State.reset, ResponseUnit.resetWith]
  · show (7048 : BitVec 32) = p.1.deadline
    revert p
    decide +kernel

/-- Entry 1 of Figure 6-5 at count 7006, and the sub-read of the malformed PASS read at count 6. -/
theorem witness_SubReadExpires :
    let s := { cut with response := { cut.response with microseconds := 7006 } }
    let m := { forwardedMalformed with response := { forwardedMalformed.response with microseconds := 6 } }
    (s.sub 1).state = .issued ∧ s.response.microseconds = (s.sub 1).issue + BitVec.ofNat 32 (s.sub 1).interval ∧
      (s.parent (s.sub 1).parent).cls ≠ .pass ∧
      (m.sub 0).state = .issued ∧ m.response.microseconds = (m.sub 0).issue + BitVec.ofNat 32 (m.sub 0).interval := by
  decide +kernel

/-- One microsecond before the expiry of entries 0 and 1 nothing is due; at 7006 both are. -/
theorem witness_NothingHappensBeforeItsTime :
    let at_ := fun n : Nat => { cut with response := { cut.response with microseconds := BitVec.ofNat 32 n } }
    let due := fun (s : State) (k : Fin 64) => (s.sub k).state = .issued ∧
      s.response.microseconds = (s.sub k).issue + BitVec.ofNat 32 (s.sub k).interval
    (at_ 7005).response.fetch.issued = false ∧ (at_ 7005).change = none ∧ (∀ k, ¬due (at_ 7005) k) ∧
      (∀ k : Fin 64, ¬(((at_ 7005).sub k).state = .expired ∧
        (at_ 7005).response.microseconds = ((at_ 7005).sub k).issue + BitVec.ofNat 32 (8 * ((at_ 7005).sub k).interval))) ∧
      due (at_ 7006) 0 ∧ due (at_ 7006) 1 := by decide +kernel

/-! ### Commands -/

/-- Widths 0, 1, 60 and 61; a FREE and a RETIRING tributary; 1023 and 1024. -/
theorem witness_AttachExecutesOrRefuses :
    let s := fetching (State.reset.setTrib 0 { tributary .retiring 0 3 0 0 [] with inFlight := 1 })
    s.response.fetch.issued = true ∧ 1024 ≤ (1024 : BitVec 16).toNat ∧ ((1023 : TribId).val = (1023 : BitVec 16).toNat) ∧
      (s.trib 1023).state = .free ∧ (s.trib 0).state ≠ .free ∧ (0 : Byte).toNat = 0 ∧ 60 < (61 : Byte).toNat ∧
      (1 ≤ (1 : Byte).toNat ∧ (1 : Byte).toNat ≤ 60) ∧ 1 ≤ (60 : Byte).toNat ∧ (60 : Byte).toNat ≤ 60 := by decide +kernel

/-- An ACTIVE tributary, an IDLE one with nothing in flight, an IDLE one with one entry. -/
theorem witness_DetachExecutesOrRefuses :
    let s := fetching ((groomed.setTrib 55 (tributary .idle 6 3 0 0 [])).setTrib 1023
      { tributary .idle 6 3 0 0 [] with inFlight := 1 })
    s.response.fetch.issued = true ∧ 1024 ≤ (1024 : BitVec 16).toNat ∧ (s.trib 9).state ≠ .idle ∧
      ((s.trib 55).state = .idle ∧ (s.trib 55).inFlight = 0) ∧ (s.trib 1023).state = .idle ∧
      (s.trib 1023).inFlight ≠ 0 := by decide +kernel

theorem witness_ClearCountsReturnsAndClears :
    (fetching groomed).response.fetch.issued = true ∧ 1024 ≤ (1024 : BitVec 16).toNat ∧
      ((fetching groomed).trib 0).state = .free ∧ ((fetching groomed).trib 9).state ≠ .free := by decide +kernel

/-- Carrier 5 ON with a position taken in every 50, so that no 60 consecutive positions are free. -/
def combed : CarrierMap := mapOf ((List.finRange 240).filterMap fun i => if i.val % 50 = 0 then some (i, 1, i.val / 50) else none)

/-- The groomed part, carrier 2 limited to cost 8 and carrier 5 combed, with t55 (width 2), t57 (width 60) and t58 (width 6)
IDLE and t56 placed in carriers 3 and 4, a fetch outstanding. -/
def mapTests : State :=
  let s := (groomed.setCarrier 2 { carrierTwo with costLimit := 8 }).setCarrier 5 { Carrier.reset with on := true, map := combed }
  let s := ((s.setTrib 55 (tributary .idle 2 3 0 0 [])).setTrib 57 (tributary .idle 60 3 0 0 [])).setTrib 58
    (tributary .idle 6 3 0 0 [])
  fetching (s.setTrib 56 (tributary .active 2 3 0 0 [placement 3 0 3 768 0, placement 4 0 3 768 0]))

/-- The first tests of the map commands: tributary 1024, carrier 16; 240 in a list, 24 twice in a list; carrier 3 OFF, t1023
FREE, t9 placed in carrier 2 and t55 not; t56 with two placements. -/
theorem witness_MapCommandRefused :
    let s := mapTests
    let list := fun grains : List Byte => (List.range 2).map fun k => (grains.getD k 0).toNat
    s.response.fetch.issued = true ∧ 1024 ≤ (1024 : BitVec 16).toNat ∧ 16 ≤ (16 : Byte).toNat ∧
    (∀ t ∈ ([9, 55, 56, 57, 58, 1023] : List TribId),
      (s.trib t).state = .free ∨ (s.trib t).state = .retiring → (s.trib t).placements = []) ∧
    ((s.trib 55).width = 2 ∧ (s.trib 9).width = 2 ∧ ¬∀ g ∈ list [239, 240], g < 240) ∧ ¬(list [24, 24]).Nodup ∧
    ((s.carrier 3).on = false ∧ (s.trib 1023).state = .free ∧ (∃ q ∈ (s.trib 9).placements, q.carrier = 2) ∧
      ¬∃ q ∈ (s.trib 55).placements, q.carrier = 2) ∧
    (2 ≤ (s.trib 56).placements.length ∧ (s.carrier 2).on = true ∧ ¬∃ q ∈ (s.trib 56).placements, q.carrier = 2) := by
  decide +kernel

/-- The two carriers of `mapTests` have these maps. -/
theorem mapTests_maps : (mapTests.carrier 2).map = figure1_2 ∧ (mapTests.carrier 2).costLimit = 8 ∧
    (mapTests.carrier 5).map = combed := by
  simp [mapTests, fetching, State.carrier, State.setTrib, State.setCarrier, carrierTwo]

/-- The later tests, on the map of Figure 1-2: positions 20 and 5 taken for t55 and t9; no run of 60 in the combed map; cost
11 above the limit 8; and t55 listed at 24 and 25, t9 onto its own 30 and 31, which pass every test. -/
theorem witness_MapCommandAdmittedOrRefused :
    let m := figure1_2
    (m[(20 : Position)] = some ⟨9, 0⟩ ∧ m[(5 : Position)] = some ⟨17, 0⟩) ∧
    (pick? 60 false none combed = none) ∧
    readCost (changedMap .place 58 [24, 26, 28, 32, 34, 36] m) = 11 ∧
    ((∀ i ∈ ([24, 25] : List Position), m[i] = none) ∧ readCost (changedMap .place 55 [24, 25] m) ≤ 8 ∧
      readCost (changedMap .regroom 9 [30, 31] m) ≤ 8 ∧ m[(30 : Position)] = some ⟨9, 1⟩) := by
  decide +kernel

/-- t55, width 6, IDLE: listed at 24 to 29, and picked there. -/
theorem witness_PlaceAdmitted :
    let s := fetching (groomed.setTrib 55 (tributary .idle 6 3 0x11 600 []))
    let positions : List Position := [24, 25, 26, 27, 28, 29]
    s.response.fetch.issued = true ∧ (s.carrier 2).on = true ∧ (s.trib 55).state = .idle ∧ (s.trib 55).placements = [] ∧
      positions.length = (s.trib 55).width ∧ positions.Nodup ∧ (∀ p ∈ positions, (s.carrier 2).map[p] = none) ∧
      positions.map (fun p => p.val) = ([24, 25, 26, 27, 28, 29, 0].take (s.trib 55).width : List Byte).map BitVec.toNat ∧
      pick? (s.trib 55).width false none (s.carrier 2).map = some positions ∧
      readCost (writeEntries 55 positions (s.carrier 2).map) ≤ (s.carrier 2).costLimit := by decide +kernel

/-- t9, width 2, moved onto its own position 30 and position 31, listed; and picked at 0 and 1. -/
theorem witness_RegroomAdmitted :
    let s := fetching groomed
    s.response.fetch.issued = true ∧ (s.trib 9).placements.map (·.carrier) = [2] ∧
      ([30, 31] : List Position).length = (s.trib 9).width ∧
      ([30, 31] : List Position).map (fun p => p.val) = ([30, 31, 7].take (s.trib 9).width : List Byte).map BitVec.toNat ∧
      ((s.carrier 2).map[(30 : Position)].map (·.trib) = some 9 ∧ (s.carrier 2).map[(31 : Position)] = none) ∧
      readCost (writeEntries 9 [30, 31] (clearEntries 9 (s.carrier 2).map)) ≤ (s.carrier 2).costLimit ∧
      ∃ positions, pick? (s.trib 9).width false (some 9) (s.carrier 2).map = some positions ∧ positions = [0, 1] ∧
        readCost (writeEntries 9 positions (clearEntries 9 (s.carrier 2).map)) ≤ (s.carrier 2).costLimit :=
  ⟨by decide +kernel, by decide +kernel, by decide +kernel, by decide +kernel, by decide +kernel, by decide +kernel,
    [0, 1], by decide +kernel⟩

/-- A tributary of 1024, a carrier of 16, a tributary without and one with a placement in the carrier. -/
theorem witness_UnplaceAdmitted :
    (fetching groomed).response.fetch.issued = true ∧ 1024 ≤ (1024 : BitVec 16).toNat ∧ 16 ≤ (16 : Byte).toNat ∧
      (∀ p ∈ ((fetching groomed).trib 9).placements, p.carrier ≠ 15) ∧
      ((fetching groomed).trib 9).placements.map (·.carrier) = [2] := by decide +kernel

/-- Carriers 15 and 16; a carrier with entries and one with none. -/
theorem witness_CarrierTurnedOnAndOff :
    (fetching groomed).response.fetch.issued = true ∧ 16 ≤ (16 : Byte).toNat ∧
      ((15 : CarrierId).val = (15 : Byte).toNat) ∧ 0 < ((fetching groomed).carrier 2).mapped ∧
      ((fetching groomed).carrier 15).mapped = 0 := by decide +kernel

/-- An outstanding fetch: all that the statements of SET-LIMITS, MARK, CLEAR-TABLES and the queries ask. -/
theorem witness_fetchOutstanding : (fetching groomed).response.fetch.issued = true := by decide +kernel

/-- 0x09 names no kind; 0x30 names MARK. -/
theorem witness_SetNoticeWritesKindAndThreshold :
    (fetching groomed).response.fetch.issued = true ∧ (∀ k : EventKind, k.code ≠ 0x09) ∧ EventKind.mark.code = 0x30 :=
  ⟨by decide +kernel, fun k => by cases k <;> decide, rfl⟩

theorem witness_MarkRaisesItsEvent :
    let s := fetching groomed
    s.response.fetch.issued = true ∧ (s.events.setting .mark).enabled = true ∧
      (s.events.written - s.events.taken).toNat ≠ 1024 := by decide +kernel

/-- Tributaries 1023 and 1024, carriers 15 and 16. -/
theorem witness_QueriesReportAndChangeNothing :
    (fetching groomed).response.fetch.issued = true ∧ 1024 ≤ (1024 : BitVec 16).toNat ∧ 16 ≤ (16 : Byte).toNat ∧
      (1023 : TribId).val = (1023 : BitVec 16).toNat ∧ (15 : CarrierId).val = (15 : Byte).toNat := by decide +kernel

theorem witness_ReadMonitorReportsCounter :
    (fetching groomed).response.fetch.issued = true ∧ 8 ≤ (8 : Byte).toNat ∧ (7 : Fin 8).val = (7 : Byte).toNat := by
  decide +kernel

/-- Counter 2 unlocked, counter 7 locked; source 0x10 known, 0x11 unknown; counter 8. -/
theorem witness_MonitorSetAndLocked :
    let s := fetching ((State.reset.setCounter 2 counterTwo).setCounter 7 { Counter.reset with lock := true })
    s.response.fetch.issued = true ∧ 8 ≤ (8 : Byte).toNat ∧ toSource? 0x11 = none ∧
      toSource? 0x10 = some (some .acceptWaits) ∧ toSource? 0x00 = some none ∧ (s.counter 2).lock = false ∧
      (s.counter 7).lock = true := by decide +kernel

theorem witness_UnknownCodeRefused :
    (fetching groomed).response.fetch.issued = true ∧ (Instr.badCode 0x00).wellFormed = true ∧
      (Instr.badCode 0x7E).wellFormed = true := by decide +kernel

/-! ### Events, occurrences, evaluation, allocation -/

/-- A counter of EVENTS-LOST that reports its wraps. -/
def lossCounter (count : BitVec 48) : Counter :=
  { Counter.reset with source := some .eventsLost, report := true, count := count }

/-- The ring full with a given lost count, and counter 0 counting the losses from a given count. -/
def fullRing (lost : Nat) (count : BitVec 48) : State :=
  { State.reset.setCounter 0 (lossCounter count) with
    events := { EventWriter.reset with written := 488, taken := 65000, lost := lost } }

/-- MARK disabled; enabled with one place free; enabled with the ring full and the lost count at 0, 254 and 255. -/
theorem witness_EventWrittenLostOrDiscarded :
    let w := EventWriter.reset
    ({ w with kinds := w.kinds.set 15 ⟨false, 0⟩ }.setting (Event.mark 5).kind).enabled = false ∧
      (w.setting (Event.mark 5).kind).enabled = true ∧
      ({ w with written := 487, taken := 65000 }.written - (65000 : BitVec 16)).toNat ≠ 1024 ∧
      ∀ lost ∈ [0, 254, 255],
        let s := fullRing lost 0
        (s.events.setting (Event.mark 5).kind).enabled = true ∧ (s.events.written - s.events.taken).toNat = 1024 ∧
          s.events.lost ≤ 255 := by decide +kernel

/-- An EVENTS-LOST counter at 2^48 − 2 is raised by a loss without a wrap; one at 2^48 − 1 wraps. -/
theorem witness_EventLostAndCounted :
    let o : Occurrence := ⟨.eventsLost, 1, (Event.mark 5).carrier, (Event.mark 5).trib⟩
    ((fullRing 254 0xFFFFFFFFFFFE).counter 0).admits o = true ∧
      (∀ n : Fin 8, ((fullRing 254 0xFFFFFFFFFFFE).counter n).admits o = true →
        ((fullRing 254 0xFFFFFFFFFFFE).counter n).report = true →
        ((fullRing 254 0xFFFFFFFFFFFE).counter n).count.toNat + 1 < 2 ^ 48) ∧
      ¬((fullRing 254 0xFFFFFFFFFFFF).counter 0).count.toNat + 1 < 2 ^ 48 := by decide +kernel

/-- Counter 2 of section 11.5 admits carrier 5 and not carrier 9; amounts up to 8; it wraps where 2^48 is reached, and an
amount of 8 takes it there and one of 2 does not. -/
theorem witness_OccurrenceAddedWhereAdmitted :
    counterTwo.source ≠ some .eventsLost ∧ counterTwo.source = some .slips ∧ counterTwo.tribFilter = false ∧
      BitVec.ofNat 4 5 &&& counterTwo.carrierMask = counterTwo.carrierMatch ∧
      BitVec.ofNat 4 9 &&& counterTwo.carrierMask ≠ counterTwo.carrierMatch ∧ counterTwo.report = true ∧
      2 ^ 48 ≤ counterTwo.count.toNat + 8 ∧ 2 ^ 48 ≤ counterTwo.count.toNat + 3 ∧
      counterTwo.count.toNat + 2 < 2 ^ 48 := by decide +kernel

/-- Tributary 412 at IW 5003. -/
def t412 : Tributary := tributary .active 4 3 0 5003 []

/-- A fresh placement of it, and one restart-pending. -/
def t412Marked (fresh : Bool) : Placement :=
  { placement 11 5000 5003 256 0 with fresh := fresh, restartPending := !fresh }

/-- A fresh placement; one restart-pending; lags 0, 1, 6 and 7 after the advance; a quiet count that reaches the silence limit
and one that does not; a SILENT tributary; and t9's placement in carrier 2. -/
theorem witness_EvaluationKeepsLagInRange :
    (t412.state = .active ∧ 2 ≤ t412.targetLag ∧ t412.targetLag ≤ 5) ∧
      (∀ er ∈ [5002, 5001, 4996, 4995],
        let p := placement 11 (BitVec.ofNat 16 er) 5000 1536 0
        256 ≤ p.smoothed ∧ p.smoothed ≤ 1536 ∧ p.fresh = false ∧ p.restartPending = false ∧
          (evaluation .reset t412 p).outcome ≠ .silenced) ∧
      [5002, 5001, 4996, 4995].map (fun er => (t412.iw - (BitVec.ofNat 16 er + 1)).toNat) = [0, 1, 6, 7] ∧
      (t412Marked true).fresh = true ∧ (t412Marked true).er = t412.iw - BitVec.ofNat 16 t412.targetLag ∧
      (t412Marked false).fresh = false ∧ (t412Marked false).restartPending = true ∧
      256 ≤ (t412Marked false).smoothed ∧
      (∀ q ∈ [(2, 3), (3, 4)], (if t412.iw = (placement 11 5000 5003 687 q.1).snapshot then q.1 + 1 else 0) = q.2) ∧
      Limits.reset.silence = 4 ∧ { t412 with state := .silent }.state = .silent ∧
      ((groomed.trib 9).placementIn 2).isSome = true := by decide +kernel

/-- Figure 1-2: width 6 has a candidate at 24; width 210 has none. -/
theorem witness_PickTakesFewestPieces :
    (1 ≤ 6 ∧ 6 ≤ 60) ∧ (∀ k, k < 6 → 24 + k < 240 ∧ figure1_2.toList.getD (24 + k) none = none) ∧
      ∀ g0, ¬∀ k, k < 60 → g0 + k < 240 ∧ (mapOf ((List.finRange 240).filterMap fun i =>
        if i.val % 50 = 0 then some (i, 1, i.val / 50) else none)).toList.getD (g0 + k) none = none := by
  refine ⟨by decide, by decide +kernel, fun g0 h => ?_⟩
  have hb : g0 ≤ 180 := by have := (h 59 (by omega)).1; omega
  have hall : ∀ g : Fin 181, ∃ k : Fin 60, ¬(mapOf ((List.finRange 240).filterMap fun i =>
      if i.val % 50 = 0 then some (i, 1, i.val / 50) else none)).toList.getD (g + k) none = none := by decide +kernel
  obtain ⟨k, hk⟩ := hall ⟨g0, by omega⟩
  exact hk (h k k.isLt).2

/-! ### Invariants -/

/-- An OPEN parent entry of source 4. -/
def openedParent : Parent :=
  { Parent.reset with
    state := .opened, source := 4, tag := 19, address := 0x0081_5140, length := 1, cls := .translated,
    carrier := some 2, words := [none], outstanding := 1 }

/-- Carrier 2 with t9 at position 20 and a pending change. -/
def busyCarrier : Carrier :=
  { Carrier.reset with
    on := true, page := some 5, cycles := 8, generation := 3, cost := 1, mapped := 1, pendingFlag := true,
    indications := allNormal (mapOf [(20, 9, 0)]), map := mapOf [(20, 9, 0)] }

/-- A part at work: t9, width 1, placed at position 20 of carrier 2 and moving to 18; its sub-read 0 ISSUED for the open
read of parent 1; a response of source 3 ready; an untaken MARK; a forwarded write queued; one command waiting. -/
def busy : State :=
  { State.reset with
    tributaries := tabulate fun t =>
      if t = 9 then { tributary .active 1 3 0x7E 2206 [placement 2 2203 2206 768 0] with inFlight := 1 } else .reset
    carriers := tabulate fun c =>
      if c = 2 then busyCarrier else .reset
    change := some ⟨.regroom, 9, 2, [18], 7048⟩
    translation :=
      { parents := tabulate fun i => if i = 0 then completeParent else if i = 1 then openedParent else .reset
        subReads := tabulate fun k =>
          if k = 0 then ⟨.issued, 1, 1, 0, 1, some 9, some 2, 0x0001_2C00, 7000, 6⟩ else .reset
        lists := tabulate fun src => if src = 3 then [0] else if src = 4 then [1] else []
        ready := [0] }
    response := { State.reset.response with microseconds := 7000 }
    processor := { Processor.reset with
      post := 256, phase := .waitingApply, command := some (Command.regroom 9 2 false false [18]).record }
    events := { EventWriter.reset with written := 1, taken := 0, shadow := [5], threshold := 3, notice := true }
    mQueue := [.write .forwarded 0 0x0088_8280 7 0xFFFF]
    pending := [.microsecondCountAdvance] }

/-- The command at the front of the queue runs. -/
theorem busy_step : ∃ t, step busy = .next t := ⟨_, rfl⟩

theorem witness_EveryStepKeepsEventRing : busy.events.Sound where
  shadow := by decide
  room := by decide
  line := by decide
  lost := by decide
  priorities := by decide
  kinds := by decide
  threshold := by decide

theorem witness_EveryStepKeepsProcessor : busy.ProcessorSound where
  posted := by decide
  limits := by constructor <;> decide
  idle := by decide
  busy := by decide
  phase := by decide
  fetching := by decide
  waiting := by decide
  command := by decide +kernel

theorem witness_EveryStepKeepsForwardedWritesBounded : busy.forwardedWrites ≤ 32 := by decide

/-- The record of every carrier of `busy`. -/
theorem busy_carrier (c : CarrierId) : busy.carrier c = if c = 2 then busyCarrier else .reset := by
  simp only [busy, State.carrier, tabulate_get]

theorem busyCarrier_sound : busyCarrier.Sound :=
  ⟨by decide +kernel, by decide +kernel, by decide +kernel, by decide +kernel, by decide +kernel⟩

theorem resetCarrier_sound : Carrier.reset.Sound :=
  ⟨by decide +kernel, by decide +kernel, by decide +kernel, by decide +kernel, by decide +kernel⟩

theorem witness_EveryStepKeepsCarriers : busy.CarriersSound where
  records := by
    intro c
    rw [busy_carrier]
    split_ifs
    · exact busyCarrier_sound
    · exact resetCarrier_sound
  pending := by
    intro c
    have hch : (∃ ch, busy.change = some ch ∧ ch.carrier = c) ↔ c = 2 :=
      ⟨fun ⟨_, h, hc⟩ => by cases h; exact hc.symm, fun h => ⟨_, rfl, h.symm⟩⟩
    rw [busy_carrier, hch]
    split_ifs with h
    · exact iff_of_true rfl h
    · exact iff_of_false (by decide) h
  target := by
    rintro ch h
    obtain rfl : _ = ch := Option.some.inj h
    rw [busy_carrier]
    rfl

/-- The record of every tributary of `busy`. -/
theorem busy_trib (t : TribId) : busy.trib t =
    if t = 9 then { tributary .active 1 3 0x7E 2206 [placement 2 2203 2206 768 0] with inFlight := 1 } else .reset := by
  simp only [busy, State.trib, tabulate_get]

theorem witness_EveryStepKeepsTributaries : busy.TributariesSound where
  records := by
    intro t
    rw [busy_trib]
    split_ifs
    · refine ⟨by decide, by decide, by decide, by decide, by decide, ?_, by decide, by decide⟩
      intro p hp
      obtain rfl : p = _ := List.mem_singleton.1 hp
      exact ⟨by decide, by decide, by decide⟩
    · refine ⟨by decide, by decide, by decide, by decide, by decide, ?_, by decide, by decide⟩
      intro p hp
      exact absurd hp (by simp [Tributary.reset])
  inFlight := by
    intro t
    rw [busy_trib]
    by_cases h : t = 9
    · subst h
      decide +kernel
    · have h0 : busy.entriesNaming t = 0 := by
        simp only [State.entriesNaming, countTable, busy, tabulate, List.countP_eq_zero]
        intro e he
        obtain ⟨k, rfl⟩ := by simpa using he
        split_ifs
        · simp [show (9 : TribId) ≠ t from fun h' => h h'.symm]
        · simp [SubRead.reset]
      rw [h0, if_neg h]
      rfl
  placing := by
    rintro ch h hk
    obtain rfl : _ = ch := Option.some.inj h
    cases hk
  moving := by
    rintro ch h -
    obtain rfl : _ = ch := Option.some.inj h
    decide +kernel

/-- The only map entry of `busy`: slot 0 of t9 at position 20 of carrier 2. -/
theorem busy_map (c : CarrierId) (i : Fin 240) :
    (busy.carrier c).map[i] = if c = 2 ∧ i = 20 then some ⟨9, 0⟩ else none := by
  rw [busy_carrier]
  by_cases hc : c = 2
  · rw [if_pos hc]
    simp only [hc, true_and]
    revert i
    decide +kernel
  · simp [hc, Carrier.reset]

theorem witness_EveryStepKeepsMap : busy.MapSound where
  entries := by
    intro c i e h
    rw [busy_map] at h
    split_ifs at h with hci
    obtain ⟨rfl, -⟩ := hci
    obtain rfl := Option.some.inj h
    rw [busy_trib]
    decide
  once := by
    intro c i j e hi hj
    rw [busy_map] at hi hj
    split_ifs at hi with hci
    split_ifs at hj with hcj
    exact hci.2.trans hcj.2.symm
  owned := by
    intro t c h slot hs
    rw [busy_trib] at h hs
    split_ifs at h hs with ht
    · subst ht
      have hc : c = 2 := by
        by_contra hc
        exact h (by simp [Tributary.placementIn, tributary, placement, Ne.symm hc])
      have hs0 : slot = 0 := Nat.lt_one_iff.1 hs
      subst hc hs0
      exact ⟨20, by rw [busy_map]; rfl⟩
    · exact absurd rfl h
  positions := by
    rintro ch h -
    obtain rfl : _ = ch := Option.some.inj h
    refine ⟨by decide, by rw [busy_trib]; rfl, fun p hp e he => ?_⟩
    obtain rfl : p = 18 := List.mem_singleton.1 hp
    rw [busy_map] at he
    rw [if_neg (by decide)] at he
    cases he

theorem witness_EveryStepKeepsTranslationTables :
    busy.translation.ListsSound ∧ busy.translation.AccountsSound := by
  refine ⟨⟨by decide +kernel, fun src i => ?_, by decide, fun i => ?_⟩, ?_⟩
  · simp only [busy, tabulate_get]
    by_cases hi : i = 0
    · by_cases hs : src = 3 <;> by_cases hs' : src = 4 <;> simp [hi, hs, hs', completeParent, eq_comm]
    · by_cases hi' : i = 1
      · by_cases hs : src = 3 <;> by_cases hs' : src = 4 <;> simp [hi', hs, hs', openedParent, eq_comm]
      · by_cases hs : src = 3 <;> by_cases hs' : src = 4 <;> simp [hi, hi', hs, hs', Parent.reset]
  · simp only [busy, tabulate_get]
    by_cases hi : i = 0
    · simp [hi, completeParent]
    · by_cases hi' : i = 1 <;> simp [hi, hi', openedParent, Parent.reset]
  · unfold Translation.AccountsSound
    decide +kernel

/-- In `busy` the one sub-read of parent 1, which stands first in its source's list, is ISSUED: an answer completes the parent
and its response joins behind that of parent 0; so does its expiry, at count 7006. -/
theorem witness_AnswerJoinsReady :
    let late := { busy with response := { busy.response with microseconds := 7006 } }
    busy.translation.ListsSound ∧ late.translation.ListsSound ∧ (busy.sub 0).state = .issued ∧
      TagNames 0x0100 0 (busy.sub 0).generation false busy.response.epoch ∧
      late.response.microseconds = (late.sub 0).issue + BitVec.ofNat 32 (late.sub 0).interval ∧
      (busy.parent (busy.sub 0).parent).state = .opened ∧ (busy.parent (busy.sub 0).parent).outstanding = 1 ∧
      (busy.sourceList (busy.parent (busy.sub 0).parent).source).head? = some (busy.sub 0).parent :=
  ⟨witness_EveryStepKeepsTranslationTables.1, witness_EveryStepKeepsTranslationTables.1, by decide +kernel⟩

/-- R108 and R109: the answer's response stands behind the one that was ready. -/
theorem test_answerJoinsReady :
    (after (.memoryResponse 0x0100 .good [7]) busy).translation.ready = [0, 1] := by decide +kernel

/-- A grain list at its full 64 bytes, and the code 0xFF. -/
theorem witness_CommandRecordRoundTrip :
    (Command.regroom 65535 255 true true (List.replicate 64 0xFF)).wellFormed = true ∧
      (Command.badCode 0xFF).wellFormed = true := by decide +kernel

end Sys2Proof.Tests
end

section
/-! SUPPORT. UNPLACE (R15): each outcome of its tests, and with them the statement that it is always admitted past its
state test and refused before it. -/

namespace Sys2Proof.Machine

/-! ## The tests of UNPLACE, one equation for each outcome -/

theorem unplaceCommand_of_out_of_range {tributary : BitVec 16} {carrier : Byte}
    (h : 1024 ≤ tributary.toNat ∨ 16 ≤ carrier.toNat) (s : State) :
    unplaceCommand tributary carrier s = s.complete .badField [] := by
  unfold unplaceCommand
  rcases h with ht | hc
  · rw [toTrib?_of_ge ht]
  · rw [toCarrier?_of_ge hc]
    cases toTrib? tributary <;> rfl

section InRange

variable {tributary : BitVec 16} {carrier : Byte} {t : TribId} {c : CarrierId}
  (ht : t.val = tributary.toNat) (hc : c.val = carrier.toNat) {s : State}

include ht hc

theorem unplaceCommand_of_not_placed (hp : (s.trib t).placementIn c = none) :
    unplaceCommand tributary carrier s = s.complete .wrongState [] := by
  simp [unplaceCommand, toTrib?_of_val ht, toCarrier?_of_val hc, hp]

/-- Nothing stands between the state test and admission: no list, no room and no cost is looked at (R15). -/
theorem unplaceCommand_of_placed (hp : (s.trib t).placementIn c ≠ none) :
    unplaceCommand tributary carrier s = s.admitChange .unplace t c [] := by
  simp [unplaceCommand, toTrib?_of_val ht, toCarrier?_of_val hc, hp]

end InRange

/-- With the fetch outstanding the row runs UNPLACE on its record (R148). -/
theorem exec_unplace_of_issued {s : State} (hf : s.response.fetch.issued = true) (tributary : BitVec 16)
    (carrier : Byte) :
    exec (.unplace tributary carrier) s =
      .next (unplaceCommand tributary carrier (s.beginCommand (Command.unplace tributary carrier).record)) :=
  congrArg Host.Outcome.next (State.underFetch_issued hf _ _)

/-- Settles O38: each outcome of the tests of UNPLACE, with what a refusal and an admission do. -/
theorem unplaceAdmitted : Obligations.UnplaceAdmitted := by
  intro tributary carrier s hf
  rw [exec_unplace_of_issued hf]
  refine ⟨fun hrange => ?_, fun t c ht hc => ⟨fun hnot => ?_, fun ⟨p, hp, hpc⟩ => ?_⟩⟩
  · rw [unplaceCommand_of_out_of_range hrange]
    exact ⟨_, rfl, s.complete_beginCommand_onlyCompletes _ _ _⟩
  · have hnone : (s.trib t).placementIn c = none := Tributary.placementIn_eq_none.2 hnot
    rw [unplaceCommand_of_not_placed (s := s.beginCommand _) ht hc hnone]
    exact ⟨_, rfl, s.complete_beginCommand_onlyCompletes _ _ _⟩
  · have hsome : (s.trib t).placementIn c ≠ none := fun h => Tributary.placementIn_eq_none.1 h p hp hpc
    rw [unplaceCommand_of_placed (s := s.beginCommand _) ht hc hsome]
    exact ⟨_, _, rfl, s.admitChange_admits _ .unplace t c [], rfl, rfl, rfl⟩

end Sys2Proof.Machine
end

section
/-! SUPPORT. The stray write (R140): it is accepted at the head of the channel whatever the queue holds, and all it does
there is its STRAY-WRITE event. -/

namespace Sys2Proof.Machine

variable {s : State} {w : UWrite}

/-- The event of a disabled kind is discarded, and dropping a stray write does nothing else (R140, R162). -/
theorem State.dropStray_disabled (hd : (s.events.setting .strayWrite).enabled = false) : s.dropStray w = s :=
  s.raise_disabled (.strayWrite (windowCarrier w.address) w.source w.address) hd

/-- No count of the M-side queue is looked at before a write in the carrier window is accepted (R134, R140). -/
theorem State.offerWrite_of_window (hr : region w.address = .window) : s.offerWrite w = (s.dropStray w, true) :=
  if_pos hr

/-- What stands behind a stray write is offered next: the stray write is never held (R134, R140). -/
theorem State.offerAll_cons_of_window (hr : region w.address = .window) (waitReported : Bool) (rest : List Held) :
    s.offerAll (⟨.write w, waitReported⟩ :: rest) = (s.dropStray w).offerAll rest := by
  simp only [State.offerAll, State.offer, State.offerWrite_of_window hr]

/-- A stray write that finds the channel free is dropped and leaves it free (R134, R140). -/
theorem State.present_write_of_window (hw : s.channel.waiting = []) (hr : region w.address = .window) :
    s.present (.write w) = { s.dropStray w with channel := ⟨[], false⟩ } := by
  rw [State.present, hw]
  exact State.offerAll_cons_of_window hr false []

theorem exec_strayWrite_of_free_channel (hwf : (Instr.strayWrite w).wellFormed = true)
    (hw : s.channel.waiting = []) :
    exec (.strayWrite w) s = .next { s.dropStray w with channel := ⟨[], false⟩ } :=
  congrArg Host.Outcome.next (State.present_write_of_window hw (strayWrite_wellFormed hwf))

/-- Settles O9: the event names the carrier of the address and no tributary; the write is accepted at the head of any
channel and at a free one; with the kind disabled the drop leaves the part as it is. -/
theorem strayWriteDropped : Obligations.StrayWriteDropped := by
  intro w s hwf c e
  refine ⟨rfl, rfl, fun waitReported rest => ?anyHead, fun hw => ?freeChannel, fun hw hd => ?disabled⟩
  case anyHead => exact State.offerAll_cons_of_window (strayWrite_wellFormed hwf) waitReported rest
  case freeChannel => exact exec_strayWrite_of_free_channel hwf hw
  case disabled => rw [exec_strayWrite_of_free_channel hwf hw, State.dropStray_disabled hd]

end Sys2Proof.Machine
end

section
/-! SUPPORT. SET-LIMITS (R153): what becomes of each limit, and that nothing but the limits and the completion moves. -/

namespace Sys2Proof.Machine

/-! ## Each limit after SET-LIMITS (Figure 9-5) -/

section Fields

variable (l : Limits) (f : LimitFields)

theorem Limits.set_readExpiry :
    (l.set f).readExpiry = if f.applyReadExpiry then max 1 (min 63 f.readExpiry.toNat) else l.readExpiry := rfl

theorem Limits.set_applyLimit :
    (l.set f).applyLimit = if f.applyApplyLimit then max 1 (min 255 f.applyLimit.toNat) else l.applyLimit := rfl

theorem Limits.set_silence :
    (l.set f).silence = if f.applySilence then max 2 (min 15 f.silence.toNat) else l.silence := rfl

theorem Limits.set_enter :
    (l.set f).enter = if f.applyEnter then max 64 (min 768 f.enter.toNat) else l.enter := rfl

theorem Limits.set_unassignedFill :
    (l.set f).unassignedFill = if f.applyFill then f.fill else l.unassignedFill := rfl

/-- The bound of the leave margin is the enter margin after the command, applied or kept; the lower end of its range is
0 and cuts nothing off. -/
theorem Limits.set_leave :
    (l.set f).leave = if f.applyLeave then min (l.set f).enter f.leave.toNat
      else if f.applyEnter then min l.leave (l.set f).enter
      else l.leave := by
  have hclamp : clamp 0 (l.set f).enter f.leave.toNat = min (l.set f).enter f.leave.toNat := Nat.zero_max _
  rw [← hclamp]
  rfl

end Fields

/-! ## SET-LIMITS as a whole -/

section Command

variable (f : LimitFields) (s : State) (r : Record)

theorem setLimitsCommand_limits : (setLimitsCommand f s).processor.limits = s.processor.limits.set f :=
  State.completeWith_limits _ none _ _

theorem setLimitsCommand_sameTables : SameTables s (setLimitsCommand f (s.beginCommand r)) :=
  ⟨State.completeWith_tributaries _ none _ _, State.completeWith_carriers _ none _ _,
    State.completeWith_change _ none _ _⟩

theorem setLimitsCommand_sameReporting : SameReporting s (setLimitsCommand f (s.beginCommand r)) :=
  ⟨State.completeWith_events _ none _ _, State.completeWith_monitor _ none _ _, State.completeWith_draws _ none _ _⟩

theorem setLimitsCommand_sameSurroundings : SameSurroundings s (setLimitsCommand f (s.beginCommand r)) :=
  ⟨State.completeWith_translation _ none _ _, State.completeWith_microseconds _ none _ _,
    State.completeWith_epoch _ none _ _, State.completeWith_channel _ none _ _, State.completeWith_outputs _ none _ _,
    State.completeWith_pending _ none _ _⟩

/-- The reply carries the limits in effect after the command, and the fetch of the next record, if one follows, already
expires by them (R151, R153). -/
theorem setLimitsCommand_completes :
    Completes s (setLimitsCommand f (s.beginCommand r)) s.mQueue .done (limitBytes (s.processor.limits.set f)) :=
  State.complete_completes s _ .done _ rfl rfl rfl rfl rfl

end Command

/-- With the fetch outstanding the row runs SET-LIMITS on its record (R148). -/
theorem exec_setLimits_of_issued {s : State} (hf : s.response.fetch.issued = true) (f : LimitFields) :
    exec (.setLimits f) s = .next (setLimitsCommand f (s.beginCommand (Command.setLimits f).record)) :=
  congrArg Host.Outcome.next (State.underFetch_issued hf _ _)

/-- Settles O40: each limit by its clause of Figure 9-5, then all that stays, then the completion with its reply. -/
theorem setLimitsClampsEachField : Obligations.SetLimitsClampsEachField := by
  intro f s hf
  refine ⟨_, exec_setLimits_of_issued hf f, ?_⟩
  have hlimits := setLimitsCommand_limits f (s.beginCommand (Command.setLimits f).record)
  rw [State.beginCommand_limits] at hlimits
  dsimp only
  rw [hlimits]
  exact ⟨Limits.set_readExpiry _ f, Limits.set_applyLimit _ f, Limits.set_silence _ f, Limits.set_enter _ f,
    Limits.set_leave _ f, Limits.set_unassignedFill _ f, setLimitsCommand_sameTables f s _,
    setLimitsCommand_sameReporting f s _, setLimitsCommand_sameSurroundings f s _, setLimitsCommand_completes f s _⟩

end Sys2Proof.Machine
end

section
/-! SUPPORT. READ-MONITOR (R179): the range test is its only refusal, and what it answers is the counter as it stands. -/

namespace Sys2Proof.Machine

/-- The byte of a number that was read out of a byte is that byte. -/
theorem byte_toNat (b : Byte) : byte b.toNat = b := by
  rw [byte, BitVec.ofNat_toNat, BitVec.setWidth_eq]

/-! ## The range test of READ-MONITOR, one equation for each outcome -/

theorem readMonitorCommand_of_out_of_range {counter : Byte} (h : 8 ≤ counter.toNat) (s : State) :
    readMonitorCommand counter s = s.complete .badField [] := by
  rw [readMonitorCommand, toCounter?_of_ge h]

/-- Past the range test nothing is looked at, the lock neither: the lock is only reported (R179). -/
theorem readMonitorCommand_of_val {counter : Byte} {n : Fin 8} (h : n.val = counter.toNat) (s : State) :
    readMonitorCommand counter s = s.complete .done (counterBytes n (s.counter n)) := by
  rw [readMonitorCommand, toCounter?_of_val h]

/-- The number that heads the reply is the record's own byte; the other bytes are the counter's fields in the order of
Figure 12-9. -/
theorem counterBytes_of_val {counter : Byte} {n : Fin 8} (h : n.val = counter.toNat) (k : Counter) :
    counterBytes n k =
      [counter, sourceCode k.source,
        BitVec.ofNat 8 ((if k.carrierFilter then 1 else 0) + (if k.tribFilter then 2 else 0)
          + (if k.report then 4 else 0) + (if k.lock then 8 else 0)),
        BitVec.ofNat 8 k.carrierMatch.toNat, BitVec.ofNat 8 k.carrierMask.toNat] ++ leBytes 2 k.tribMatch.toNat
        ++ leBytes 2 k.tribMask.toNat ++ [0, 0, 0] ++ leBytes 4 k.note.toNat ++ leBytes 6 k.count.toNat := by
  have hnumber : byte n.val = counter := by rw [h, byte_toNat]
  rw [counterBytes, hnumber]
  rfl

/-- With the fetch outstanding the row runs READ-MONITOR on its record (R148). -/
theorem exec_readMonitor_of_issued {s : State} (hf : s.response.fetch.issued = true) (counter : Byte) :
    exec (.readMonitor counter) s =
      .next (readMonitorCommand counter (s.beginCommand (Command.readMonitor counter).record)) :=
  congrArg Host.Outcome.next (State.underFetch_issued hf _ _)

/-- Settles O44: each outcome of the range test; taking up the record leaves the counters as they stand, and the
completion changes nothing but itself. -/
theorem readMonitorReportsCounter : Obligations.ReadMonitorReportsCounter := by
  intro counter s hf
  rw [exec_readMonitor_of_issued hf]
  refine ⟨fun hrange => ?_, fun n hn => ?_⟩
  · rw [readMonitorCommand_of_out_of_range hrange]
    exact ⟨_, rfl, s.complete_beginCommand_onlyCompletes _ _ _⟩
  · rw [readMonitorCommand_of_val hn, State.beginCommand_counter, counterBytes_of_val hn]
    exact ⟨_, rfl, s.complete_beginCommand_onlyCompletes _ _ _⟩

end Sys2Proof.Machine
end

section
/-! SUPPORT. What a command of the ring can do, said once (R12, R150, R151): it completes behind some work on the tables, the
limits, the event writer or the monitor, or its map change is admitted. Properties of every command go through the two cases. -/

namespace Sys2Proof.Machine

/-- The work of a command before its completion: none for a query or a refusal, otherwise one of these updates, each with the
tests it has passed. -/
inductive CommandWork (s : State) : State → Prop where
  | nothing : CommandWork s s
  | attach (t : TribId) (width lag fill : Byte) : 1 ≤ width.toNat → width.toNat ≤ 60 → (s.trib t).state = .free →
      CommandWork s (s.setTrib t ((s.trib t).attached width lag fill))
  | detach (t : TribId) : (s.trib t).state = .idle → (s.trib t).inFlight = 0 →
      CommandWork s ((s.setTrib t { s.trib t with state := .free, width := 0 }).raise (.tribRetired t))
  | retire (t : TribId) : (s.trib t).state = .idle → (s.trib t).inFlight ≠ 0 →
      CommandWork s (s.setTrib t { s.trib t with state := .retiring, width := 0 })
  | clearCounts (t : TribId) : CommandWork s (s.setTrib t (s.trib t).cleared)
  | carrierOn (c : CarrierId) (limit : Nat) : CommandWork s (s.setCarrier c ((s.carrier c).turnedOn limit))
  | carrierOff (c : CarrierId) : (s.carrier c).mapped = 0 → CommandWork s (s.setCarrier c (s.carrier c).turnedOff)
  | limits (f : LimitFields) :
      CommandWork s { s with processor := { s.processor with limits := s.processor.limits.set f } }
  | notice (k : EventKind) (f : NoticeFields) : CommandWork s { s with events := s.events.noticed k f }
  | mark (value : BitVec 32) : CommandWork s (s.raise (.mark value))
  | counter (n : Fin 8) (k : Counter) : CommandWork s (s.setCounter n k)
  | clearTables : CommandWork s s.emptyTables

/-- Positions that steps 5 to 7 of PLACE and REGROOM let pass: listed or picked, each free where listed, and their cost within
the limit (R7 to R10). -/
structure PositionsPass (s : State) (kind : ChangeKind) (t : TribId) (c : CarrierId) (own : Option TribId)
    (pick scatter : Bool) (grains : List Byte) (positions : List Position) : Prop where
  found : (if pick then pick? (s.trib t).width scatter own (s.carrier c).map
    else listedPositions? (s.trib t).width grains) = some positions
  free : pick = false → ∀ p ∈ positions, isFree own (s.carrier c).map[p] = true
  cost : readCost (changedMap kind t positions (s.carrier c).map) ≤ (s.carrier c).costLimit

/-- A map change that its command's tests let pass (R13, R14, R15). -/
inductive Admission (s : State) : ChangeKind → TribId → CarrierId → List Position → Prop where
  | place (t : TribId) (c : CarrierId) (pick scatter : Bool) (grains : List Byte) (positions : List Position) :
      (s.carrier c).on = true → ((s.trib t).state = .idle ∨ (s.trib t).state = .active ∨ (s.trib t).state = .silent) →
      (s.trib t).placementIn c = none → (s.trib t).placements.length < 2 →
      PositionsPass s .place t c none pick scatter grains positions → Admission s .place t c positions
  | regroom (t : TribId) (c : CarrierId) (pick scatter : Bool) (grains : List Byte) (positions : List Position) :
      (s.trib t).placementIn c ≠ none →
      PositionsPass s .regroom t c (some t) pick scatter grains positions → Admission s .regroom t c positions
  | unplace (t : TribId) (c : CarrierId) : (s.trib t).placementIn c ≠ none → Admission s .unplace t c []

/-- Everything that a command can come to. -/
def RunsTo (s u : State) : Prop :=
  (∃ w code data, CommandWork s w ∧ u = w.complete code data) ∨
    ∃ kind t c positions, Admission s kind t c positions ∧ u = s.admitChange kind t c positions

theorem CommandWork.runsTo {s w : State} (h : CommandWork s w) (code : Completion) (data : List Byte) :
    RunsTo s (w.complete code data) := .inl ⟨w, code, data, h, rfl⟩

theorem RunsTo.refused (s : State) (code : Completion) (data : List Byte) : RunsTo s (s.complete code data) :=
  CommandWork.nothing.runsTo code data

theorem Admission.runsTo {s : State} {kind t c positions} (h : Admission s kind t c positions) :
    RunsTo s (s.admitChange kind t c positions) := .inr ⟨kind, t, c, positions, h, rfl⟩

/-- Steps 5 to 7 refuse, or yield positions that pass. -/
theorem State.settlePositions_runsTo (s : State) (kind : ChangeKind) (t : TribId) (c : CarrierId) (own : Option TribId)
    (pick scatter : Bool) (grains : List Byte)
    (h : ∀ positions, PositionsPass s kind t c own pick scatter grains positions → Admission s kind t c positions) :
    RunsTo s (s.settlePositions kind t c own pick scatter grains) := by
  unfold State.settlePositions
  dsimp only
  split
  · exact .refused ..
  · next positions hfound =>
    split
    · exact .refused ..
    · next hfree =>
      split
      · exact .refused ..
      · next hcost =>
        refine (h positions ⟨hfound, fun hpick p hp => ?_, Nat.not_lt.1 hcost⟩).runsTo
        simp only [hpick, Bool.not_false, Bool.true_and, Bool.not_eq_true', Bool.not_eq_false, List.all_eq_true] at hfree
        exact hfree p hp

theorem placeCommand_runsTo (tributary : BitVec 16) (carrier : Byte) (pick scatter : Bool) (grains : List Byte)
    (s : State) : RunsTo s (placeCommand tributary carrier pick scatter grains s) := by
  unfold placeCommand
  split
  · next t c _ _ =>
    dsimp only
    split
    · exact .refused ..
    · split
      · exact .refused ..
      · next hstate =>
        split
        · exact .refused ..
        · next hroom =>
          simp only [Bool.or_eq_true, not_or, Bool.not_eq_true', Bool.not_eq_false, decide_eq_true_eq] at hstate
          obtain ⟨⟨hon, husable⟩, hnot⟩ := hstate
          refine s.settlePositions_runsTo _ _ _ _ _ _ _ fun ps hps => .place t c pick scatter grains ps hon ?_ ?_
            (Nat.not_le.1 hroom) hps
          · simpa [or_assoc] using husable
          · simpa using hnot
  · exact .refused ..

theorem regroomCommand_runsTo (tributary : BitVec 16) (carrier : Byte) (pick scatter : Bool) (grains : List Byte)
    (s : State) : RunsTo s (regroomCommand tributary carrier pick scatter grains s) := by
  unfold regroomCommand
  split
  · next t c _ _ =>
    dsimp only
    split
    · exact .refused ..
    · split
      · exact .refused ..
      · next hplaced =>
        exact s.settlePositions_runsTo _ _ _ _ _ _ _ fun ps hps =>
          .regroom t c pick scatter grains ps (fun h => hplaced (by rw [h]; rfl)) hps
  · exact .refused ..

theorem unplaceCommand_runsTo (tributary : BitVec 16) (carrier : Byte) (s : State) :
    RunsTo s (unplaceCommand tributary carrier s) := by
  unfold unplaceCommand
  split
  · next t c _ _ =>
    split
    · exact .refused ..
    · next hplaced => exact (Admission.unplace t c fun h => hplaced (by rw [h]; rfl)).runsTo
  · exact .refused ..

theorem attachCommand_runsTo (tributary : BitVec 16) (width lag fill : Byte) (s : State) :
    RunsTo s (attachCommand tributary width lag fill s) := by
  unfold attachCommand
  split
  · exact .refused ..
  · next t _ =>
    dsimp only
    split
    · exact .refused ..
    · next hwidth =>
      split
      · exact .refused ..
      · next hfree =>
        exact (CommandWork.attach t width lag fill (by omega) (by omega) (not_not.1 hfree)).runsTo ..

theorem detachCommand_runsTo (tributary : BitVec 16) (s : State) : RunsTo s (detachCommand tributary s) := by
  unfold detachCommand
  split
  · exact .refused ..
  · next t _ =>
    dsimp only
    split
    · exact .refused ..
    · next hidle =>
      split
      · next hnone => exact (CommandWork.detach t (not_not.1 hidle) hnone).runsTo ..
      · next hsome => exact (CommandWork.retire t (not_not.1 hidle) hsome).runsTo ..

theorem clearCountsCommand_runsTo (tributary : BitVec 16) (s : State) : RunsTo s (clearCountsCommand tributary s) := by
  unfold clearCountsCommand
  split
  · exact .refused ..
  · next t _ =>
    dsimp only
    split
    · exact .refused ..
    · exact (CommandWork.clearCounts t).runsTo ..

theorem carrierOnCommand_runsTo (carrier : Byte) (limit : BitVec 16) (s : State) :
    RunsTo s (carrierOnCommand carrier limit s) := by
  unfold carrierOnCommand
  split
  · exact .refused ..
  · next c _ => exact (CommandWork.carrierOn c limit.toNat).runsTo ..

theorem carrierOffCommand_runsTo (carrier : Byte) (s : State) : RunsTo s (carrierOffCommand carrier s) := by
  unfold carrierOffCommand
  split
  · exact .refused ..
  · next c _ =>
    dsimp only
    split
    · exact .refused ..
    · next hmapped => exact (CommandWork.carrierOff c (Nat.eq_zero_of_not_pos hmapped)).runsTo ..

theorem setNoticeCommand_runsTo (f : NoticeFields) (s : State) : RunsTo s (setNoticeCommand f s) := by
  unfold setNoticeCommand
  split
  · exact .refused ..
  · next k _ => exact (CommandWork.notice k f).runsTo ..

theorem setMonitorCommand_runsTo (f : MonitorFields) (s : State) : RunsTo s (setMonitorCommand f s) := by
  unfold setMonitorCommand
  split
  · next n source _ _ =>
    dsimp only
    split
    · exact .refused ..
    · exact (CommandWork.counter n _).runsTo ..
  · exact .refused ..

theorem lockMonitorCommand_runsTo (counter : Byte) (s : State) : RunsTo s (lockMonitorCommand counter s) := by
  unfold lockMonitorCommand
  split
  · exact .refused ..
  · next n _ =>
    dsimp only
    split
    · exact .refused ..
    · exact (CommandWork.counter n _).runsTo ..

theorem queryTributaryCommand_runsTo (tributary : BitVec 16) (s : State) :
    RunsTo s (queryTributaryCommand tributary s) := by
  unfold queryTributaryCommand
  split <;> exact .refused ..

theorem queryCarrierCommand_runsTo (carrier start : Byte) (s : State) :
    RunsTo s (queryCarrierCommand carrier start s) := by
  unfold queryCarrierCommand
  split <;> exact .refused ..

theorem readMonitorCommand_runsTo (counter : Byte) (s : State) : RunsTo s (readMonitorCommand counter s) := by
  unfold readMonitorCommand
  split <;> exact .refused ..

/-- Every command completes behind its work, or is admitted (R12, R150, R151). -/
theorem State.run_runsTo (s : State) (c : Command) : RunsTo s (s.run c) := by
  cases c with
  | attach => exact attachCommand_runsTo ..
  | detach => exact detachCommand_runsTo ..
  | clearCounts => exact clearCountsCommand_runsTo ..
  | place => exact placeCommand_runsTo ..
  | regroom => exact regroomCommand_runsTo ..
  | unplace => exact unplaceCommand_runsTo ..
  | carrierOn => exact carrierOnCommand_runsTo ..
  | carrierOff => exact carrierOffCommand_runsTo ..
  | setLimits f => exact (CommandWork.limits f).runsTo ..
  | setNotice => exact setNoticeCommand_runsTo ..
  | mark v => exact (CommandWork.mark v).runsTo ..
  | queryTributary => exact queryTributaryCommand_runsTo ..
  | queryCarrier => exact queryCarrierCommand_runsTo ..
  | setMonitor => exact setMonitorCommand_runsTo ..
  | readMonitor => exact readMonitorCommand_runsTo ..
  | lockMonitor => exact lockMonitorCommand_runsTo ..
  | clearTables => exact CommandWork.clearTables.runsTo ..
  | badCode => exact .refused ..

end Sys2Proof.Machine
end

section
/-! SUPPORT. The event writer (R160 to R171): what each operation on it keeps of its soundness, and with them the statement
that every step keeps the shadow list, its room and the notice line in agreement. -/

namespace Sys2Proof.Machine

/-! ## The operations on the event writer -/

theorem EventWriter.setting_priority_le {w : EventWriter} (h : w.Sound) (k : EventKind) : (w.setting k).priority ≤ 7 :=
  h.kinds k.index

theorem EventWriter.withNotice_line (w : EventWriter) :
    w.withNotice.notice = true ↔ ∃ p ∈ w.withNotice.shadow, w.withNotice.threshold < p :=
  noticeLevel_iff w.shadow w.threshold

/-- A record written puts one priority behind the list, where there is room for it (R162, R163). -/
theorem State.writeEvent_sound {s : State} (h : s.events.Sound) (hf : s.events.full = false) (e : Event) :
    (s.writeEvent e).events.Sound where
  shadow := by
    have hlen := h.shadow
    have hroom := h.room
    have hnot : (s.events.written - s.events.taken).toNat ≠ 1024 := of_decide_eq_false hf
    simp only [State.writeEvent_shadow, State.writeEvent_written, State.writeEvent_taken, List.length_append,
      List.length_singleton]
    bv_omega
  room := by
    have hlen := h.shadow
    have hroom := h.room
    have hnot : (s.events.written - s.events.taken).toNat ≠ 1024 := of_decide_eq_false hf
    simp only [State.writeEvent_shadow, List.length_append, List.length_singleton]
    omega
  line := EventWriter.withNotice_line _
  lost := Nat.zero_le _
  priorities p hp := by
    rw [State.writeEvent_shadow, List.mem_append, List.mem_singleton] at hp
    obtain hp | rfl := hp
    · exact h.priorities p hp
    · exact EventWriter.setting_priority_le h _
  kinds := h.kinds
  threshold := h.threshold

/-- A lost event raises the lost count only (R165). -/
theorem State.loseEvent_sound {s : State} (h : s.events.Sound) : s.loseEvent.events.Sound where
  shadow := h.shadow
  room := h.room
  line := h.line
  lost := (raiseLost_le _ h.lost).2
  priorities := h.priorities
  kinds := h.kinds
  threshold := h.threshold

theorem raiseAll_sound (fuel : Nat) (es : List Event) {s : State} (h : s.events.Sound) :
    (raiseAll fuel es s).events.Sound := by
  induction fuel generalizing es s with
  | zero => exact h
  | succ fuel ih =>
    cases es with
    | nil => exact h
    | cons e es =>
      unfold raiseAll
      split
      · exact ih es h
      · split
        · exact ih _ (State.loseEvent_sound h)
        · next hf => exact ih es (State.writeEvent_sound h (Bool.eq_false_iff.2 hf) e)

theorem State.raise_sound {s : State} (h : s.events.Sound) (e : Event) : (s.raise e).events.Sound := raiseAll_sound _ _ h

theorem State.report_sound {s : State} (h : s.events.Sound) (o : Occurrence) : (s.report o).events.Sound :=
  raiseAll_sound _ _ h

theorem foldl_report_sound (os : List Occurrence) {s : State} (h : s.events.Sound) :
    (os.foldl State.report s).events.Sound := by
  induction os generalizing s with
  | nil => exact h
  | cons o os ih => exact ih (State.report_sound h o)

/-- A take count within the untaken records leaves one priority for each that remains (R166). -/
theorem State.handTake_sound {s : State} (h : s.events.Sound) (count : BitVec 16) : (s.handTake count).events.Sound := by
  unfold State.handTake
  dsimp only
  split
  · next hle =>
    have hlen := h.shadow
    have hroom := h.room
    refine ⟨?shadow, ?room, EventWriter.withNotice_line _, h.lost, fun p hp => h.priorities p (List.mem_of_mem_drop hp),
      h.kinds, h.threshold⟩
    case shadow =>
      simp only [EventWriter.withNotice_shadow, EventWriter.withNotice_written, EventWriter.withNotice_taken,
        List.length_drop]
      bv_omega
    case room =>
      simp only [EventWriter.withNotice_shadow, List.length_drop]
      omega
  · exact h

/-- SET-NOTICE writes settings in their ranges, and the line anew (R170). -/
theorem EventWriter.noticed_sound {w : EventWriter} (h : w.Sound) (k : EventKind) (f : NoticeFields) :
    (w.noticed k f).Sound where
  shadow := h.shadow
  room := h.room
  line := EventWriter.withNotice_line _
  lost := h.lost
  priorities := h.priorities
  kinds j := by
    change ((w.kinds.set k.index ⟨f.enable ≠ 0, clamp 0 7 f.priority.toNat⟩)[j]).priority ≤ 7
    rw [Fin.getElem_fin, Vector.getElem_set]
    split
    · simp [clamp]
    · exact h.kinds j
  threshold := by
    change (if f.applyThreshold then clamp 0 7 f.threshold.toNat else w.threshold) ≤ 7
    split
    · simp [clamp]
    · exact h.threshold

theorem EventWriter.reset_sound : EventWriter.reset.Sound where
  shadow := rfl
  room := Nat.zero_le _
  line := by simp [EventWriter.reset]
  lost := Nat.zero_le _
  priorities := by simp [EventWriter.reset]
  kinds := by decide
  threshold := Nat.zero_le _

/-! ## The blocks' own operations -/

theorem State.noteWrite_events_sound {s : State} (h : s.events.Sound) (w : UWrite) : (s.noteWrite w).events.Sound := by
  unfold State.noteWrite
  split
  · unfold State.trackWrite State.completePage State.straySlot
    dsimp only
    have ht : ∀ r, (s.setTrib (tribOf w.address) r).events.Sound := fun _ => h
    split
    · split
      · split
        · exact State.raise_sound (State.report_sound (ht _) _) _
        · split
          · exact State.report_sound (ht _) _
          · exact State.raise_sound (State.report_sound (ht _) _) _
      · exact State.report_sound (ht _) _
      · exact h
      · exact h
    · exact h
  · split
    · unfold State.handPost
      dsimp only
      split
      · split <;> exact h
      · exact State.raise_sound h _
    · split
      · exact State.handTake_sound h _
      · exact h

theorem State.reportEvaluation_sound {s : State} (h : s.events.Sound) (t : TribId) (c : CarrierId) (tr : Tributary)
    (e : Evaluation) : (s.reportEvaluation t c tr e).events.Sound := by
  unfold State.reportEvaluation
  dsimp only
  have h1 : (if e.outcome = .silenced then (s.alarmEverywhere t).raise (.tribSilent t c tr.iw e.placement.er e.placement.quiet)
      else s).events.Sound := by
    split
    · exact State.raise_sound (s := s.alarmEverywhere t) h _
    · exact h
  generalize (if e.outcome = .silenced then _ else s) = u at h1
  have h2 : (match e.slip with
      | some sl => (u.raise (.slip t c sl.size sl.lag)).report ⟨.slips, 1, some c, some t⟩
      | none => u).events.Sound := by
    cases e.slip with
    | none => exact h1
    | some sl => exact State.report_sound (State.raise_sound h1 _) _
  cases e.moved with
  | none => exact h2
  | some d => exact State.raise_sound h2 _

theorem State.evaluate_sound {s : State} (h : s.events.Sound) (c : CarrierId) (t : TribId) :
    (s.evaluate c t).events.Sound := by
  unfold State.evaluate
  split
  · exact State.reportEvaluation_sound (s := s.setTrib t _) h ..
  · exact h

theorem State.evaluateAll_sound {s : State} (h : s.events.Sound) (c : CarrierId) : (s.evaluateAll c).events.Sound := by
  have fold : ∀ (l : List TribId) (w : State), w.events.Sound →
      (l.foldl (fun s t => s.evaluate c t) w).events.Sound := by
    intro l
    induction l with
    | nil => exact fun _ hw => hw
    | cons t l ih => exact fun w hw => ih _ (State.evaluate_sound hw c t)
  exact fold _ _ h

theorem State.applyChange_events (s : State) (ch : PendingChange) (a : ApplyAt) : (s.applyChange ch a).events = s.events :=
  (State.completeWith_events ..).trans rfl

theorem State.recomputeIndications_events (s : State) (c : CarrierId) (s0 s4 : State) (ch : Option PendingChange) :
    (s.recomputeIndications c s0 s4 ch).events = s.events := rfl

theorem State.cycleStart_sound {s : State} (h : s.events.Sound) (c : CarrierId) (p : BitVec 3) :
    (s.cycleStart c p).events.Sound := by
  have hpage : (s.takePage c p).events.Sound := by
    unfold State.takePage
    dsimp only
    split
    · split
      · exact h
      · exact State.raise_sound (s := s.setCarrier c _) h _
    · exact h
  have hcount : ((s.takePage c p).countCycle c).events.Sound :=
    State.report_sound (s := (s.takePage c p).setCarrier c _) hpage _
  unfold State.cycleStart
  dsimp only
  rw [State.recomputeIndications_events]
  refine State.evaluateAll_sound ?_ c
  split
  · rw [State.applyChange_events]; exact hcount
  · exact hcount

theorem State.issuePiece_sound {s : State} (h : s.events.Sound) (i : Fin 32) (c : CarrierId) (p : Piece) :
    (s.issuePiece i c p).events.Sound := by
  have ha : (s.allocate i p.first p.length (some p.trib) (some c) (slotAddress p.trib p.page p.slot) .own).events.Sound := by
    unfold State.allocate
    split <;> exact h
  exact State.report_sound (s := State.setTrib _ p.trib _) ha _

theorem State.acceptRead_sound {s : State} (h : s.events.Sound) (i : Fin 32) (r : URead) :
    (s.acceptRead i r).events.Sound := by
  have hopen : ∀ cls c words status n, (s.openParent i r cls c words status n).events.Sound := fun _ _ _ _ _ => h
  unfold State.acceptRead
  split
  · have fold : ∀ (l : List Piece) (w : State), w.events.Sound →
        (l.foldl (fun s p => s.issuePiece i (windowCarrier r.address) p) w).events.Sound := by
      intro l
      induction l with
      | nil => exact fun _ hw => hw
      | cons p l ih => exact fun w hw => ih _ (State.issuePiece_sound hw i _ p)
    refine fold _ _ (foldl_report_sound _ ?_)
    exact h
  · exact hopen ..
  · exact State.report_sound (State.report_sound (hopen ..) _) _
  · exact State.raise_sound (hopen ..) _
  · unfold State.acceptPass
    refine State.report_sound ?_ _
    unfold State.allocate
    split <;> exact h

theorem State.release_sound {s : State} (h : s.events.Sound) (k : Fin 64) : (s.release k).events.Sound := by
  unfold State.release
  dsimp only
  rw [State.noteFreed_eq]
  split
  · unfold State.releaseTrib
    dsimp only
    split
    · exact State.raise_sound (s := (s.setSub k _).setTrib _ _) h _
    · exact h
  · exact h

theorem State.accountParent_sound {s : State} (h : s.events.Sound) (i : Fin 32) (p : Parent) (o : Option Occurrence) :
    (s.accountParent i p o).events.Sound := by
  have h1 : ((s.setParent i p).reportIf o).events.Sound := by
    cases o with
    | none => exact h
    | some o => exact State.report_sound (s := s.setParent i p) h o
  change (State.raiseReadFault _ p).events.Sound
  unfold State.raiseReadFault
  split
  · exact State.raise_sound h1 _
  · exact h1

theorem State.complete_events (s : State) (code : Completion) (data : List Byte) :
    (s.complete code data).events = s.events := State.completeWith_events ..

/-- Of a command's work only DETACH, SET-NOTICE and MARK reach the event writer. -/
theorem CommandWork.events_sound {s w : State} (hw : CommandWork s w) (h : s.events.Sound) : w.events.Sound := by
  cases hw with
  | detach t => exact State.raise_sound (s := s.setTrib t _) h _
  | notice k f => exact EventWriter.noticed_sound h k f
  | mark v => exact State.raise_sound h _
  | _ => exact h

theorem State.run_events_sound {s : State} (h : s.events.Sound) (c : Command) : (s.run c).events.Sound := by
  obtain ⟨w, code, data, hw, hrun⟩ | ⟨kind, t, d, ps, -, hrun⟩ := s.run_runsTo c
  · rw [hrun, State.complete_events]; exact hw.events_sound h
  · rw [hrun]; exact h

/-- The soundness of the event writer survives everything that can happen to the part. -/
theorem events_stepClosed : StepClosed fun s => s.events.Sound where
  channel _ _ h := h
  pending _ _ h := h
  stray _ _ h := State.raise_sound h _
  forward s w h _ _ :=
    State.noteWrite_events_sound (State.report_sound (s := s.enqueue [.write .forwarded w.source w.address w.data w.enables]) h _) w
  hold s r b h := by
    unfold State.holdRead
    split
    · exact h
    · exact State.report_sound h _
  cycle _ c p h _ := State.cycleStart_sound h c p
  accept _ i r h _ _ := State.acceptRead_sound h i r
  stale _ h := State.report_sound h _
  run s r c h _ := State.run_events_sound (s := s.beginCommand r) h c
  fetchFails s h _ := by rw [State.complete_events]; exact h
  answer _ k _ _ h _ := State.release_sound (State.accountParent_sound h ..) k
  late _ k h _ := State.release_sound (State.report_sound h _) k
  depart s i rest h _ := by
    unfold State.depart
    dsimp only
    rw [State.noteFreed_eq]
    exact h
  apply s ch h _ := by rw [State.applyChange_events]; exact h
  expire s k h _ := State.accountParent_sound (s := s.setSub k _) h ..
  abandon _ k h _ := State.release_sound (State.raise_sound h _) k
  tick _ h := h
  reset _ _ := EventWriter.reset_sound
  taken _ _ _ h _ := h

/-- Settles O52: the event writer's soundness holds through every event, hence through every step. -/
theorem everyStepKeepsEventRing : Obligations.EveryStepKeepsEventRing := fun s t h hstep =>
  events_stepClosed.step s t h hstep

end Sys2Proof.Machine
end

section
/-! SUPPORT. The forwarded writes of the M-side queue (R134, R135): every event but the acceptance of a write and the taking of
a request keeps their number, and with it the statement that they never exceed 32. -/

namespace Sys2Proof.Machine

/-- A request that the part itself makes, or a forwarded read, joins the queue without a forwarded write. -/
theorem State.enqueue_forwardedWrites {s : State} {rs : List MRequest} (h : rs.countP MRequest.isForwardedWrite = 0) :
    (s.enqueue rs).forwardedWrites = s.forwardedWrites := by
  simp [State.forwardedWrites, h]

theorem State.issueFetch_forwardedWrites (s : State) : s.issueFetch.forwardedWrites = s.forwardedWrites := by
  simp [State.forwardedWrites, State.issueFetch, MRequest.isForwardedWrite]

theorem State.forwardWrite_forwardedWrites (s : State) (w : UWrite) :
    (s.forwardWrite w).forwardedWrites = s.forwardedWrites + 1 := by
  rw [State.forwardWrite, State.report_forwardedWrites]
  simp [State.forwardedWrites, MRequest.isForwardedWrite]

/-- What the queue holds in front stays there: requests that forward no write join its end. -/
def QueueGrows (s t : State) : Prop :=
  ∃ ws, t.mQueue = s.mQueue ++ ws ∧ ws.countP MRequest.isForwardedWrite = 0

theorem QueueGrows.of_eq {s t : State} (h : t.mQueue = s.mQueue) : QueueGrows s t := ⟨[], by simp [h], rfl⟩

theorem QueueGrows.refl (s : State) : QueueGrows s s := .of_eq rfl

theorem QueueGrows.trans {s t u : State} (h : QueueGrows s t) (h' : QueueGrows t u) : QueueGrows s u := by
  obtain ⟨ws, hq, hw⟩ := h
  obtain ⟨ws', hq', hw'⟩ := h'
  exact ⟨ws ++ ws', by rw [hq', hq, List.append_assoc], by rw [List.countP_append, hw, hw']⟩

theorem Reported.queueGrows {s t : State} (h : Reported s t) : QueueGrows s t := by
  obtain ⟨ws, hw, hq⟩ := h.mQueue
  exact ⟨ws, hq, countP_forwarded_of_allOwnWrites hw⟩

theorem QueueGrows.forwardedWrites {s t : State} (h : QueueGrows s t) : t.forwardedWrites = s.forwardedWrites := by
  obtain ⟨ws, hq, hw⟩ := h
  simp [State.forwardedWrites, hq, hw]

/-- What a write is noted for appends own writes and at most the fetch (R43, R141). -/
theorem State.noteWrite_queueGrows (s : State) (w : UWrite) : QueueGrows s (s.noteWrite w) := by
  have hset : ∀ r, QueueGrows s (s.setTrib (tribOf w.address) r) := fun _ => .of_eq rfl
  have hraise : ∀ u e, QueueGrows s u → QueueGrows s (u.raise e) := fun u e h => h.trans (raise_reported u e).queueGrows
  have hreport : ∀ u o, QueueGrows s u → QueueGrows s (u.report o) := fun u o h => h.trans (report_reported u o).queueGrows
  unfold State.noteWrite
  split
  · unfold State.trackWrite State.completePage State.straySlot
    dsimp only
    split
    · split
      · split
        · exact hraise _ _ (hreport _ _ (hset _))
        · split
          · exact hreport _ _ (hset _)
          · exact hraise _ _ (hreport _ _ (hset _))
      · exact hreport _ _ (hset _)
      · exact .refl s
      · exact .refl s
    · exact .refl s
  · split
    · unfold State.handPost
      dsimp only
      split
      · split
        · exact ⟨_, rfl, rfl⟩
        · exact .of_eq rfl
      · exact hraise _ _ (.refl s)
    · split
      · unfold State.handTake
        dsimp only
        split <;> exact .of_eq rfl
      · exact .refl s

theorem State.allocate_queueGrows (s : State) (i : Fin 32) (first length : Nat) (t : Option TribId)
    (c : Option CarrierId) (a : Addr) (o : Origin) : QueueGrows s (s.allocate i first length t c a o) := by
  unfold State.allocate
  split
  · exact .refl s
  · exact ⟨_, rfl, rfl⟩

theorem State.issuePiece_queueGrows (s : State) (i : Fin 32) (c : CarrierId) (p : Piece) :
    QueueGrows s (s.issuePiece i c p) :=
  (State.allocate_queueGrows s i p.first p.length (some p.trib) (some c) (slotAddress p.trib p.page p.slot) .own).trans
    ((QueueGrows.of_eq rfl).trans (report_reported (State.setTrib _ p.trib _) _).queueGrows)

theorem foldl_issuePiece_queueGrows (i : Fin 32) (c : CarrierId) (ps : List Piece) (s : State) :
    QueueGrows s (ps.foldl (fun s p => s.issuePiece i c p) s) := by
  induction ps generalizing s with
  | nil => exact .refl s
  | cons p ps ih => exact (s.issuePiece_queueGrows i c p).trans (ih _)

/-- An accepted read queues reads and own writes only (R102, R104). -/
theorem State.acceptRead_queueGrows (s : State) (i : Fin 32) (r : URead) : QueueGrows s (s.acceptRead i r) := by
  unfold State.acceptRead
  split
  · refine QueueGrows.trans ?_ (foldl_issuePiece_queueGrows i _ _ _)
    refine QueueGrows.trans ?_ (foldl_report_reported _ _).queueGrows
    exact .of_eq rfl
  · exact .of_eq rfl
  · refine QueueGrows.trans ?_ ((report_reported _ _).trans (report_reported _ _)).queueGrows
    exact .of_eq rfl
  · refine QueueGrows.trans ?_ (raise_reported _ _).queueGrows
    exact .of_eq rfl
  · refine QueueGrows.trans ?_ (report_reported _ _).queueGrows
    refine QueueGrows.trans ?_ (State.allocate_queueGrows _ _ _ _ _ _ _ _)
    exact .of_eq rfl

theorem State.release_queueGrows (s : State) (k : Fin 64) : QueueGrows s (s.release k) := by
  unfold State.release
  dsimp only
  rw [State.noteFreed_eq]
  split
  · unfold State.releaseTrib
    dsimp only
    split
    · exact (QueueGrows.of_eq rfl).trans ((raise_reported ((s.setSub k _).setTrib _ _) _).queueGrows.trans (.of_eq rfl))
    · exact .of_eq rfl
  · exact .of_eq rfl

theorem State.accountParent_queueGrows (s : State) (i : Fin 32) (p : Parent) (o : Option Occurrence) :
    QueueGrows s (s.accountParent i p o) :=
  (QueueGrows.of_eq rfl).trans
    ((((s.setParent i p).reportIf_reported o).trans (State.raiseReadFault_reported _ p)).queueGrows.trans (.of_eq rfl))

theorem State.complete_forwardedWrites (s : State) (code : Completion) (data : List Byte) :
    (s.complete code data).forwardedWrites = s.forwardedWrites := s.completeWith_forwardedWrites none code data

theorem CommandWork.forwardedWrites {s w : State} (hw : CommandWork s w) : w.forwardedWrites = s.forwardedWrites := by
  cases hw with
  | detach t => exact State.raise_forwardedWrites (s.setTrib t _) _
  | mark v => exact State.raise_forwardedWrites s _
  | _ => rfl

theorem State.run_forwardedWrites (s : State) (c : Command) : (s.run c).forwardedWrites = s.forwardedWrites := by
  obtain ⟨w, code, data, hw, hrun⟩ | ⟨kind, t, d, ps, -, hrun⟩ := s.run_runsTo c
  · rw [hrun, State.complete_forwardedWrites, hw.forwardedWrites]
  · rw [hrun]; rfl

/-- A bound of 32 forwarded writes survives everything that can happen to the part: a write is accepted below it only. -/
theorem forwardedWrites_stepClosed : StepClosed fun s => s.forwardedWrites ≤ 32 where
  channel _ _ h := h
  pending _ _ h := h
  stray s w h := by rw [State.dropStray, State.raise_forwardedWrites]; exact h
  forward s w _ _ hroom := by
    rw [((s.forwardWrite w).noteWrite_queueGrows w).forwardedWrites, State.forwardWrite_forwardedWrites]
    exact hroom
  hold s r b h := by
    unfold State.holdRead
    split
    · exact h
    · rw [State.report_forwardedWrites]; exact h
  cycle s c p h _ := by rw [(s.cycleStart_keeps c p).forwardedWrites]; exact h
  accept s i r h _ _ := by rw [(s.acceptRead_queueGrows i r).forwardedWrites]; exact h
  stale s h := by rw [State.staleResponse, State.report_forwardedWrites]; exact h
  run s r c h _ := by rw [State.run_forwardedWrites]; exact h
  fetchFails s h _ := by rw [State.complete_forwardedWrites]; exact h
  answer s k _ _ h _ := le_of_eq_of_le
    ((s.accountParent_queueGrows _ _ _).trans (State.release_queueGrows _ k)).forwardedWrites h
  late s k h _ := le_of_eq_of_le
    ((report_reported s _).queueGrows.trans (State.release_queueGrows _ k)).forwardedWrites h
  depart s i rest h _ := by
    unfold State.depart
    dsimp only
    rw [State.noteFreed_eq]
    exact h
  apply s ch h _ := by rw [(s.applyChange_keeps ch .expiry).forwardedWrites]; exact h
  expire s k h _ := le_of_eq_of_le (State.accountParent_queueGrows (s.setSub k _) _ _ _).forwardedWrites h
  abandon s k h _ := le_of_eq_of_le
    ((raise_reported s _).queueGrows.trans (State.release_queueGrows _ k)).forwardedWrites h
  tick _ h := h
  reset _ _ := Nat.zero_le 32
  taken s q rest h hq := by
    refine le_trans ?_ h
    unfold State.forwardedWrites
    rw [hq, List.countP_cons]
    exact Nat.le_add_right _ _

/-- Settles O54: the bound holds through every event, hence through every step. -/
theorem everyStepKeepsForwardedWritesBounded : Obligations.EveryStepKeepsForwardedWritesBounded := fun s t h hstep =>
  forwardedWrites_stepClosed.step s t h hstep

end Sys2Proof.Machine
end

section
/-! SUPPORT. The command processor, its fetch and the pending change (R146 to R153): what the blocks that serve reads, writes
and responses keep of them, what posting, admission and completion do to them, and with these the statement that every step
keeps them in agreement. -/

namespace Sys2Proof.Machine

/-! ## What the other blocks keep -/

/-- The carriers, the pending change, the command processor, the response unit and the queue of commands are left alone. -/
structure KeepsControl (s t : State) : Prop where
  carriers : t.carriers = s.carriers
  change : t.change = s.change
  processor : t.processor = s.processor
  response : t.response = s.response
  pending : t.pending = s.pending

theorem KeepsControl.refl (s : State) : KeepsControl s s := ⟨rfl, rfl, rfl, rfl, rfl⟩

theorem KeepsControl.trans {s t u : State} (h : KeepsControl s t) (h' : KeepsControl t u) : KeepsControl s u :=
  ⟨h'.carriers.trans h.carriers, h'.change.trans h.change, h'.processor.trans h.processor, h'.response.trans h.response,
    h'.pending.trans h.pending⟩

theorem KeepsControl.carrier {s t : State} (h : KeepsControl s t) (c : CarrierId) : t.carrier c = s.carrier c := by
  unfold State.carrier; rw [h.carriers]

theorem Reported.keepsControl {s t : State} (h : Reported s t) : KeepsControl s t :=
  ⟨h.carriers, h.change, h.processor, h.response, h.pending⟩

theorem State.setTrib_keepsControl (s : State) (t : TribId) (r : Tributary) : KeepsControl s (s.setTrib t r) :=
  ⟨rfl, rfl, rfl, rfl, rfl⟩

theorem State.setSub_keepsControl (s : State) (k : Fin 64) (r : SubRead) : KeepsControl s (s.setSub k r) :=
  ⟨rfl, rfl, rfl, rfl, rfl⟩

theorem State.enqueue_keepsControl (s : State) (rs : List MRequest) : KeepsControl s (s.enqueue rs) :=
  ⟨rfl, rfl, rfl, rfl, rfl⟩

theorem State.trackWrite_keepsControl (s : State) (w : UWrite) : KeepsControl s (s.trackWrite w) := by
  have hreport : ∀ r o, KeepsControl s ((s.setTrib (tribOf w.address) r).report o) := fun r o =>
    (s.setTrib_keepsControl _ r).trans (report_reported _ o).keepsControl
  unfold State.trackWrite State.completePage State.straySlot
  dsimp only
  split
  · split
    · split
      · exact (hreport _ _).trans (raise_reported _ _).keepsControl
      · split
        · exact hreport _ _
        · exact (hreport _ _).trans (raise_reported _ _).keepsControl
    · exact hreport _ _
    · exact .refl s
    · exact .refl s
  · exact .refl s

theorem State.handTake_keepsControl (s : State) (count : BitVec 16) : KeepsControl s (s.handTake count) := by
  unfold State.handTake
  dsimp only
  split <;> exact ⟨rfl, rfl, rfl, rfl, rfl⟩

theorem State.allocate_keepsControl (s : State) (i : Fin 32) (first length : Nat) (t : Option TribId)
    (c : Option CarrierId) (a : Addr) (o : Origin) : KeepsControl s (s.allocate i first length t c a o) := by
  unfold State.allocate
  split <;> exact ⟨rfl, rfl, rfl, rfl, rfl⟩

theorem State.openParent_keepsControl (s : State) (i : Fin 32) (r : URead) (cls : ReadClass) (c : Option CarrierId)
    (words : List (Option Word)) (status : Status) (n : Nat) :
    KeepsControl s (s.openParent i r cls c words status n) := ⟨rfl, rfl, rfl, rfl, rfl⟩

theorem State.issuePiece_keepsControl (s : State) (i : Fin 32) (c : CarrierId) (p : Piece) :
    KeepsControl s (s.issuePiece i c p) :=
  (s.allocate_keepsControl i p.first p.length (some p.trib) (some c) (slotAddress p.trib p.page p.slot) .own).trans
    ((State.setTrib_keepsControl _ p.trib _).trans (report_reported _ _).keepsControl)

theorem foldl_issuePiece_keepsControl (i : Fin 32) (c : CarrierId) (ps : List Piece) (s : State) :
    KeepsControl s (ps.foldl (fun s p => s.issuePiece i c p) s) := by
  induction ps generalizing s with
  | nil => exact .refl s
  | cons p ps ih => exact (s.issuePiece_keepsControl i c p).trans (ih _)

theorem State.acceptRead_keepsControl (s : State) (i : Fin 32) (r : URead) : KeepsControl s (s.acceptRead i r) := by
  unfold State.acceptRead
  split
  · refine KeepsControl.trans ?_ (foldl_issuePiece_keepsControl i _ _ _)
    refine KeepsControl.trans ?_ (foldl_report_reported _ _).keepsControl
    exact ⟨rfl, rfl, rfl, rfl, rfl⟩
  · exact s.openParent_keepsControl ..
  · exact (s.openParent_keepsControl ..).trans ((report_reported _ _).trans (report_reported _ _)).keepsControl
  · exact (s.openParent_keepsControl ..).trans (raise_reported _ _).keepsControl
  · exact (s.openParent_keepsControl ..).trans
      ((State.allocate_keepsControl ..).trans (report_reported _ _).keepsControl)

theorem State.release_keepsControl (s : State) (k : Fin 64) : KeepsControl s (s.release k) := by
  obtain ⟨-, -, -, -, -, -, -, -, hcarriers, hchange, hprocessor, hresponse, -, hpending⟩ :=
    (s.release_spec s k rfl rfl rfl rfl rfl rfl rfl rfl rfl).1
  exact ⟨hcarriers, hchange, hprocessor, hresponse, hpending⟩

theorem State.accountParent_keepsControl (s : State) (i : Fin 32) (p : Parent) (o : Option Occurrence) :
    KeepsControl s (s.accountParent i p o) := by
  obtain ⟨-, -, -, -, -, -, hcarriers, hchange, hprocessor, hresponse, -, hpending, -, -⟩ := s.accountParent_spec i p o
  exact ⟨hcarriers, hchange, hprocessor, hresponse, hpending⟩

theorem State.answer_keepsControl (s : State) (k : Fin 64) (result : MemResult) (words : List Word) :
    KeepsControl s (s.answer k result words) :=
  (s.accountParent_keepsControl _ _ _).trans (State.release_keepsControl _ k)

theorem State.lateArrival_keepsControl (s : State) (k : Fin 64) : KeepsControl s (s.lateArrival k) :=
  (report_reported s _).keepsControl.trans (State.release_keepsControl _ k)

theorem State.abandonSub_keepsControl (s : State) (k : Fin 64) : KeepsControl s (s.abandonSub k) :=
  (raise_reported s _).keepsControl.trans (State.release_keepsControl _ k)

theorem State.expireSub_keepsControl (s : State) (k : Fin 64) : KeepsControl s (s.expireSub k) :=
  (s.setSub_keepsControl k _).trans (State.accountParent_keepsControl _ _ _ _)

theorem State.depart_keepsControl (s : State) (i : Fin 32) : KeepsControl s (s.depart i) := by
  unfold State.depart
  dsimp only
  rw [State.noteFreed_eq]
  exact ⟨rfl, rfl, rfl, rfl, rfl⟩

theorem State.holdRead_keepsControl (s : State) (r : URead) (b : Bool) : KeepsControl s (s.holdRead r b) := by
  unfold State.holdRead
  split
  · exact .refl s
  · exact (report_reported s _).keepsControl

theorem State.forwardWrite_keepsControl (s : State) (w : UWrite) : KeepsControl s (s.forwardWrite w) :=
  (s.enqueue_keepsControl _).trans (report_reported _ _).keepsControl

/-! ## The command processor -/

/-- The soundness of the processor looks at the processor, the fetch and the pending change alone. -/
theorem State.ProcessorSound.congr {s t : State} (h : s.ProcessorSound) (hp : t.processor = s.processor)
    (hf : t.response.fetch.issued = s.response.fetch.issued) (hc : t.change = s.change) : t.ProcessorSound := by
  obtain ⟨posted, limits, idle, busy, phase, fetching, waiting, command⟩ := h
  constructor <;> simpa only [hp, hf, hc]

theorem KeepsControl.processorSound {s t : State} (h : KeepsControl s t) (hs : s.ProcessorSound) : t.ProcessorSound :=
  hs.congr h.processor (by rw [h.response]) h.change

/-- A command that has been taken up: the fetch is FREE, no change is pending, and the count posted is not reached (R147,
R148). -/
structure State.Executing (s : State) : Prop where
  posted : (s.processor.post - s.processor.done).toNat ≤ 256
  limits : s.processor.limits.Sound
  busy : s.processor.post ≠ s.processor.done
  fetch : s.response.fetch.issued = false
  change : s.change = none

theorem State.ProcessorSound.change_none_of_issued {s : State} (h : s.ProcessorSound)
    (hi : s.response.fetch.issued = true) : s.change = none := by
  have hphase := h.fetching.2 hi
  have hnot : ¬s.change.isSome = true := fun hc => by
    rw [h.waiting.2 hc] at hphase
    cases hphase
  simpa using hnot

theorem State.ProcessorSound.waiting_of_change {s : State} (h : s.ProcessorSound) {ch : PendingChange}
    (hc : s.change = some ch) : s.processor.phase = .waitingApply := h.waiting.2 (by rw [hc]; rfl)

theorem State.ProcessorSound.issued_of_change {s : State} (h : s.ProcessorSound) {ch : PendingChange}
    (hc : s.change = some ch) : s.response.fetch.issued = false := by
  cases hi : s.response.fetch.issued with
  | false => rfl
  | true => rw [h.change_none_of_issued hi] at hc; cases hc

theorem State.ProcessorSound.beginCommand {s : State} (h : s.ProcessorSound) (hi : s.response.fetch.issued = true)
    (r : Record) : (s.beginCommand r).Executing where
  posted := h.posted
  limits := h.limits
  busy := h.busy (by rw [h.fetching.2 hi]; decide)
  fetch := rfl
  change := h.change_none_of_issued hi

/-- After a completion the processor is IDLE or fetches the next record (R151). -/
theorem State.Executing.completeWith {s : State} (h : s.Executing) (g : Option (List Position)) (code : Completion)
    (data : List Byte) : (s.completeWith g code data).ProcessorSound := by
  obtain ⟨posted, limits, busy, fetch, change⟩ := h
  have hle : (s.processor.post - (s.processor.done + 1)).toNat ≤ 256 := by bv_omega
  unfold State.completeWith
  dsimp only
  split
  · next heq =>
    refine ⟨hle, limits, fun _ => ⟨heq.symm, rfl⟩, fun hne => absurd rfl hne, .inl rfl, ?_, ?_, ?_⟩ <;> simp [fetch, change]
  · next hne =>
    refine ⟨hle, limits, nofun, fun _ => Ne.symm hne, .inr (.inl rfl), ?_, ?_, ?_⟩ <;>
      simp [State.issueFetch, change]

/-- An admitted change is waited for with its record kept (R12, R16). -/
theorem State.Executing.admitChange {s : State} (h : s.Executing) (hc : s.processor.command.isSome = true)
    (kind : ChangeKind) (t : TribId) (c : CarrierId) (ps : List Position) : (s.admitChange kind t c ps).ProcessorSound where
  posted := h.posted
  limits := h.limits
  idle := nofun
  busy _ := h.busy
  phase := .inr (.inr rfl)
  fetching := by simp [State.admitChange, h.fetch]
  waiting := by simp [State.admitChange]
  command := by simpa [State.admitChange] using hc

/-- Limits that SET-LIMITS leaves are in their ranges (R153). -/
theorem Limits.set_sound {l : Limits} (h : l.Sound) (f : LimitFields) : (l.set f).Sound where
  readExpiry := by
    have := h.readExpiry
    rw [Limits.set_readExpiry]; split <;> omega
  applyLimit := by
    have := h.applyLimit
    rw [Limits.set_applyLimit]; split <;> omega
  silence := by
    have := h.silence
    rw [Limits.set_silence]; split <;> omega
  enter := by
    have := h.enter
    rw [Limits.set_enter]; split <;> omega
  leave := by
    have hle := h.leave
    rw [Limits.set_leave]
    split
    · exact Nat.min_le_left _ _
    · split
      · exact Nat.min_le_right _ _
      · next hkeep => rw [Limits.set_enter, if_neg hkeep]; exact hle

/-- Of a command's work only SET-LIMITS reaches the processor. -/
theorem CommandWork.executing {s w : State} (hw : CommandWork s w) (h : s.Executing) : w.Executing := by
  have same : ∀ u : State, u.processor = s.processor → u.response = s.response → u.change = s.change → u.Executing :=
    fun u hp hr hc => by
      obtain ⟨posted, limits, busy, fetch, change⟩ := h
      constructor <;> simpa only [hp, hr, hc]
  cases hw with
  | limits f => exact ⟨h.posted, Limits.set_sound h.limits f, h.busy, h.fetch, h.change⟩
  | detach t => exact same _ (State.raise_processor ..) (State.raise_response ..) (State.raise_change ..)
  | mark v => exact same _ (State.raise_processor ..) (State.raise_response ..) (State.raise_change ..)
  | _ => exact same _ rfl rfl rfl

theorem State.ProcessorSound.run {s : State} (h : s.ProcessorSound) (hi : s.response.fetch.issued = true) (r : Record)
    (c : Command) : ((s.beginCommand r).run c).ProcessorSound := by
  have hbegun := h.beginCommand hi r
  obtain ⟨w, code, data, hw, hrun⟩ | ⟨kind, t, d, ps, -, hrun⟩ := (s.beginCommand r).run_runsTo c
  · rw [hrun]; exact (hw.executing hbegun).completeWith none code data
  · rw [hrun]; exact hbegun.admitChange rfl kind t d ps

theorem State.ProcessorSound.fetchFails {s : State} (h : s.ProcessorSound) (hi : s.response.fetch.issued = true)
    (code : Completion) (data : List Byte) : (s.freeFetch.complete code data).ProcessorSound :=
  have hfreed : s.freeFetch.Executing :=
    ⟨h.posted, h.limits, h.busy (by rw [h.fetching.2 hi]; decide), rfl, h.change_none_of_issued hi⟩
  hfreed.completeWith none code data

/-- The application of the pending change completes its command (R17, R18). -/
theorem State.ProcessorSound.applyChange {s : State} (h : s.ProcessorSound) {ch : PendingChange} (hc : s.change = some ch)
    (a : ApplyAt) : (s.applyChange ch a).ProcessorSound :=
  have hrewritten : (s.rewriteMap ch a).Executing :=
    ⟨h.posted, h.limits, h.busy (by rw [h.waiting_of_change hc]; decide), h.issued_of_change hc, rfl⟩
  hrewritten.completeWith _ _ _

/-- A post count that is taken lies within 256 of D; from IDLE it issues the fetch (R146). -/
theorem State.ProcessorSound.handPost {s : State} (h : s.ProcessorSound) (count : BitVec 16) :
    (s.handPost count).ProcessorSound := by
  unfold State.handPost
  split
  · next htakes =>
    simp only [Processor.takesPost, Bool.and_eq_true, Bool.or_eq_true, decide_eq_true_eq] at htakes
    obtain ⟨hle, hwhen⟩ := htakes
    dsimp only
    split
    · next hidle =>
      obtain ⟨hidle, hne⟩ := hidle
      have hchange : s.change = none := by
        have := mt h.waiting.2 (by rw [hidle]; decide)
        simpa using this
      have hcommand := (h.idle hidle).2
      exact ⟨hle, h.limits, nofun, fun _ => hne, .inr (.inl rfl), by simp, by simp [State.issueFetch, hchange],
        by simp [State.issueFetch, hcommand]⟩
    · next hnot =>
      have hbusy : s.processor.phase ≠ .idle → count ≠ s.processor.done := by
        rintro hphase rfl
        simp [hphase] at hwhen
      refine ⟨hle, h.limits, fun hidle => ⟨?_, (h.idle hidle).2⟩, hbusy, h.phase, h.fetching, h.waiting, h.command⟩
      by_contra hne
      exact hnot ⟨hidle, hne⟩
  · exact (raise_reported s _).keepsControl.processorSound h

theorem State.ProcessorSound.noteWrite {s : State} (h : s.ProcessorSound) (w : UWrite) : (s.noteWrite w).ProcessorSound := by
  unfold State.noteWrite
  split
  · exact (s.trackWrite_keepsControl w).processorSound h
  · split
    · exact h.handPost _
    · split
      · exact (s.handTake_keepsControl _).processorSound h
      · exact h

theorem State.changeFor_eq_some {s : State} {c : CarrierId} {ch : PendingChange} (h : s.changeFor c = some ch) :
    s.change = some ch ∧ ch.carrier = c := by
  unfold State.changeFor at h
  split at h
  · split at h
    · next hc => cases h; exact ⟨by assumption, hc⟩
    · cases h
  · cases h

/-- A cycle start touches the processor where it applies the pending change, and nowhere else (R17, R62). -/
theorem State.ProcessorSound.cycleStart {s : State} (h : s.ProcessorSound) (c : CarrierId) (p : BitVec 3) :
    (s.cycleStart c p).ProcessorSound := by
  obtain ⟨hchange, -, hresponse, hprocessor, -⟩ := s.countCycle_takePage_spec c p
  have hcounted : ((s.takePage c p).countCycle c).ProcessorSound := h.congr hprocessor (by rw [hresponse]) hchange
  have hrest : ∀ (s0 s4 : State) q, s4.ProcessorSound →
      ((s4.evaluateAll c).recomputeIndications c s0 s4 q).ProcessorSound := fun s0 s4 q h4 =>
    have hkeeps := (s4.evaluateAll_keeps c).trans (State.recomputeIndications_keeps _ c s0 s4 q)
    h4.congr hkeeps.processor (by rw [hkeeps.response]) hkeeps.change
  unfold State.cycleStart
  dsimp only
  split
  · next ch hfor => exact hrest _ _ _ (hcounted.applyChange (State.changeFor_eq_some hfor).1 _)
  · exact hrest _ _ _ hcounted

theorem Limits.reset_sound : Limits.reset.Sound := ⟨by decide, by decide, by decide, by decide, by decide⟩

theorem State.reset_processorSound : State.reset.ProcessorSound where
  posted := show (0 - 0 : BitVec 16).toNat ≤ 256 by decide
  limits := Limits.reset_sound
  idle _ := ⟨rfl, rfl⟩
  busy h := absurd rfl h
  phase := .inl rfl
  fetching := by simp [State.reset, Processor.reset, ResponseUnit.resetWith]
  waiting := by simp [State.reset, Processor.reset]
  command := by simp [State.reset, Processor.reset]

/-- The agreement of the processor with its fetch and the pending change survives everything that can happen. -/
theorem processor_stepClosed : StepClosed State.ProcessorSound where
  channel _ _ h := h.congr rfl rfl rfl
  pending _ _ h := h.congr rfl rfl rfl
  stray s _ h := (raise_reported s _).keepsControl.processorSound h
  forward s w h _ _ := ((s.forwardWrite_keepsControl w).processorSound h).noteWrite w
  hold s r b h := (s.holdRead_keepsControl r b).processorSound h
  cycle _ c p h _ := h.cycleStart c p
  accept s i r h _ _ := (s.acceptRead_keepsControl i r).processorSound h
  stale s h := (report_reported s _).keepsControl.processorSound h
  run _ r c h hi := h.run hi r c
  fetchFails _ h hi := h.fetchFails hi _ _
  answer s k result words h _ := (s.answer_keepsControl k result words).processorSound h
  late s k h _ := (s.lateArrival_keepsControl k).processorSound h
  depart s i _ h _ := (s.depart_keepsControl i).processorSound h
  apply _ _ h hc := h.applyChange hc .expiry
  expire s k h _ := (s.expireSub_keepsControl k).processorSound h
  abandon s k h _ := (s.abandonSub_keepsControl k).processorSound h
  tick _ h := h.congr rfl rfl rfl
  reset _ _ := State.reset_processorSound.congr rfl rfl rfl
  taken _ _ _ h _ := h.congr rfl rfl rfl

/-- Settles O53: the agreement holds through every event, hence through every step. -/
theorem everyStepKeepsProcessor : Obligations.EveryStepKeepsProcessor := fun s t h hstep =>
  processor_stepClosed.step s t h hstep

end Sys2Proof.Machine
end

section
/-! SUPPORT. The tables: an entry that is replaced, and how many entries pass a test after it; the evaluation of one placement
and of all placements of a carrier, record by record (R62, R74). -/

namespace Sys2Proof.Machine

/-! ## Counting in a table -/

/-- Replacing an entry moves a count by what the entry's old and new value weigh. -/
theorem countTable_set (p : α → Bool) (v : Vector α n) (i : Fin n) (a : α) :
    countTable p (v.set i a) + (if p v[i] then 1 else 0) = countTable p v + (if p a then 1 else 0) := by
  have hi : i.val < v.toList.length := by simp
  have hget : v.toList[i.val] = v[i] := by simp
  have hle : (if p v[i] then 1 else 0) ≤ v.toList.countP p := by
    split
    · next hp => exact List.countP_pos_iff.2 ⟨v[i], by simp, hp⟩
    · exact Nat.zero_le _
  have hcount := List.countP_set (p := p) (a := a) hi
  rw [hget] at hcount
  unfold countTable
  rw [Vector.toList_set, hcount]
  omega

theorem countTable_eq_zero {p : α → Bool} {v : Vector α n} : countTable p v = 0 ↔ ∀ i : Fin n, p v[i] = false := by
  unfold countTable
  rw [List.countP_eq_zero]
  constructor
  · intro h i
    exact Bool.eq_false_iff.2 (h v[i] (by simp))
  · intro h a ha
    obtain ⟨i, hi, rfl⟩ := List.mem_iff_getElem.1 ha
    rw [Vector.length_toList] at hi
    have := h ⟨i, hi⟩
    simpa using this

/-- A table that differs from another in one entry is that table with the entry replaced. -/
theorem subReads_eq_set {s t : State} {k : Fin 64} {e : SubRead} (hk : t.sub k = e) (hl : ∀ l, l ≠ k → t.sub l = s.sub l) :
    t.translation.subReads = s.translation.subReads.set k e := by
  apply Vector.ext
  intro i hi
  rw [Vector.getElem_set]
  split
  · next h => subst hk; simp [State.sub, h]
  · next h => exact hl ⟨i, hi⟩ fun h' => h (congrArg Fin.val h').symm

/-! ## One evaluation -/

theorem Tributary.placementIn_mem {tr : Tributary} {c : CarrierId} {p : Placement} (h : tr.placementIn c = some p) :
    p ∈ tr.placements ∧ p.carrier = c :=
  ⟨List.mem_of_find?_eq_some h, by simpa using List.find?_some h⟩

/-- Whether a tributary is placed in a carrier is told by the carriers of its placements. -/
theorem Tributary.placementIn_eq_none_iff_carriers {tr : Tributary} {c : CarrierId} :
    tr.placementIn c = none ↔ c ∉ tr.placements.map (·.carrier) := by
  rw [Tributary.placementIn_eq_none]
  simp

theorem Tributary.placementIn_congr {a b : Tributary} (h : b.placements.map (·.carrier) = a.placements.map (·.carrier))
    (c : CarrierId) : b.placementIn c = none ↔ a.placementIn c = none := by
  rw [Tributary.placementIn_eq_none_iff_carriers, Tributary.placementIn_eq_none_iff_carriers, h]

theorem State.evaluationOf_eq_some {s : State} {c : CarrierId} {t : TribId} {p : Placement}
    (h : (s.trib t).placementIn c = some p) :
    s.evaluationOf c t = some (evaluation s.processor.limits (s.trib t) p) := by
  rw [State.evaluationOf, h, Option.map_some]

theorem State.evaluate_of_none {s : State} {c : CarrierId} {t : TribId} (h : (s.trib t).placementIn c = none) :
    s.evaluate c t = s := by
  rw [State.evaluate, State.evaluationOf, h, Option.map_none]

theorem State.evaluate_of_some {s : State} {c : CarrierId} {t : TribId} {p : Placement}
    (h : (s.trib t).placementIn c = some p) :
    s.evaluate c t =
      (s.setTrib t ((s.trib t).evaluated c (evaluation s.processor.limits (s.trib t) p))).reportEvaluation t c (s.trib t)
        (evaluation s.processor.limits (s.trib t) p) := by
  rw [State.evaluate, State.evaluationOf_eq_some h]

theorem State.reportEvaluation_trib (s : State) (t : TribId) (c : CarrierId) (tr : Tributary) (e : Evaluation)
    (x : TribId) : (s.reportEvaluation t c tr e).trib x = s.trib x := by
  rw [State.trib, State.reportEvaluation_tributaries]; rfl

theorem State.evaluate_trib_self {s : State} {c : CarrierId} {t : TribId} {p : Placement}
    (h : (s.trib t).placementIn c = some p) :
    (s.evaluate c t).trib t = (s.trib t).evaluated c (evaluation s.processor.limits (s.trib t) p) := by
  rw [State.evaluate_of_some h, State.reportEvaluation_trib, State.trib_setTrib_self]

theorem State.evaluate_trib_ne (s : State) (c : CarrierId) {t x : TribId} (h : x ≠ t) :
    (s.evaluate c t).trib x = s.trib x := by
  cases hp : (s.trib t).placementIn c with
  | none => rw [State.evaluate_of_none hp]
  | some p => rw [State.evaluate_of_some hp, State.reportEvaluation_trib, State.trib_setTrib_ne _ _ _ _ h]

/-! ## All evaluations of a carrier -/

/-- Step 4 evaluates the placements whose records name the carrier (R62). -/
theorem State.mem_placedIn {s : State} {c : CarrierId} {t : TribId} :
    t ∈ s.placedIn c ↔ (s.trib t).placementIn c ≠ none := by
  have hzip : ∀ x, (t, x) ∈ (List.finRange 1024).zip s.tributaries.toList ↔ x = s.trib t := by
    intro x
    rw [List.mem_iff_getElem]
    constructor
    · rintro ⟨i, hi, h⟩
      rw [List.getElem_zip, Prod.mk.injEq] at h
      obtain ⟨ht, rfl⟩ := h
      subst ht
      simp [State.trib]
    · rintro rfl
      exact ⟨t.val, by simp, by simp [State.trib]⟩
  unfold State.placedIn
  rw [ne_eq, Tributary.placementIn_eq_none]
  simp only [List.mem_map, List.mem_filter, List.any_eq_true, decide_eq_true_eq, Prod.exists, exists_and_right,
    exists_eq_right, hzip]
  push Not
  constructor
  · rintro ⟨_, rfl, p, hp, hc⟩; exact ⟨p, hp, hc⟩
  · rintro ⟨p, hp, hc⟩; exact ⟨_, rfl, p, hp, hc⟩

theorem State.placedIn_nodup (s : State) (c : CarrierId) : (s.placedIn c).Nodup := by
  unfold State.placedIn
  refine List.Nodup.sublist (List.Sublist.map _ List.filter_sublist) ?_
  rw [List.map_fst_zip (by simp)]
  exact List.nodup_finRange 1024

theorem State.evaluationOrder_perm (s : State) (c : CarrierId) : (s.evaluationOrder c).Perm (s.placedIn c) := by
  unfold State.evaluationOrder State.raisingIn
  refine (List.Perm.append_left _ (orderByKey_perm _ _)).trans (List.perm_append_comm.trans ?_)
  have h := List.filter_append_perm (s.evaluationRaises c ·) (s.placedIn c)
  simpa using h

theorem State.mem_evaluationOrder {s : State} {c : CarrierId} {t : TribId} :
    t ∈ s.evaluationOrder c ↔ (s.trib t).placementIn c ≠ none :=
  (s.evaluationOrder_perm c).mem_iff.trans State.mem_placedIn

theorem State.evaluationOrder_nodup (s : State) (c : CarrierId) : (s.evaluationOrder c).Nodup :=
  (s.evaluationOrder_perm c).nodup_iff.2 (s.placedIn_nodup c)

end Sys2Proof.Machine
end

section
/-! SUPPORT. The tributary records (Chapter 2): what a page completion, an evaluation, a map change, an allocation and a release
keep of their soundness, and with these the statement that every step keeps the records and the in-flight counts sound. -/

namespace Sys2Proof.Machine

/-! ## One record -/

/-- A tributary in use: IDLE, ACTIVE or SILENT. -/
def Tributary.Usable (tr : Tributary) : Prop := tr.state = .idle ∨ tr.state = .active ∨ tr.state = .silent

/-- The width and the carriers of the placements stay: all that a map asks of a record (R2). -/
structure Tributary.SamePlaces (a b : Tributary) : Prop where
  width : b.width = a.width
  carriers : b.placements.map (·.carrier) = a.placements.map (·.carrier)

theorem Tributary.SamePlaces.refl (a : Tributary) : a.SamePlaces a := ⟨rfl, rfl⟩

theorem Tributary.SamePlaces.trans {a b c : Tributary} (h : a.SamePlaces b) (h' : b.SamePlaces c) : a.SamePlaces c :=
  ⟨h'.width.trans h.width, h'.carriers.trans h.carriers⟩

theorem Tributary.SamePlaces.of_eq {a b : Tributary} (h : b = a) : a.SamePlaces b := h ▸ .refl a

/-- What an event may do to a tributary's record beside its placements and sub-reads: the record stays sound, its width, its
in-flight count and the carriers of its placements stay, and a tributary in use stays in use. -/
structure Tributary.Follows (a b : Tributary) : Prop extends a.SamePlaces b where
  sound : a.Sound → b.Sound
  inFlight : b.inFlight = a.inFlight
  usable : a.Usable → b.Usable

theorem Tributary.Follows.refl (a : Tributary) : a.Follows a := ⟨.refl a, id, rfl, id⟩

theorem Tributary.Follows.of_eq {a b : Tributary} (h : b = a) : a.Follows b := h ▸ .refl a

theorem Tributary.Sound.restart {tr : Tributary} (h : tr.Sound) (hs : tr.state = .silent) (iw : BitVec 16) :
    Tributary.Sound { tr with iw := iw, state := .active,
                              placements := tr.placements.map fun p => { p with restartPending := true } } where
  unused := by rintro (hf | hr) <;> contradiction
  used _ := h.used (.inr (.inr hs))
  placed := by
    have := h.placed
    simpa [hs] using this
  two := by simpa using h.two
  distinct := by simpa [Function.comp_def] using h.distinct
  placements := by
    simp only [List.mem_map, forall_exists_index, and_imp, forall_apply_eq_imp_iff₂]
    intro p hp
    have := h.placements p hp
    exact ⟨this.smoothed, ⟨this.quiet.1, nofun⟩, this.fresh⟩
  free := nofun
  retiring := nofun

/-- Counts that the record keeps beside its state and placements do not touch its soundness. -/
theorem Tributary.Sound.congr {a b : Tributary} (h : a.Sound) (hs : b.state = a.state) (hw : b.width = a.width)
    (hl : b.targetLag = a.targetLag) (hp : b.placements = a.placements) (hi : b.inFlight = a.inFlight) : b.Sound := by
  obtain ⟨unused, used, placed, two, distinct, placements, free, retiring⟩ := h
  constructor <;> simpa only [hs, hw, hl, hp, hi]

/-- A page completion keeps a record sound: a restored tributary's placements are restart-pending (R46, R49). -/
theorem Tributary.completed_follows (tr : Tributary) (page : BitVec 3) : tr.Follows (tr.completed page) := by
  unfold Tributary.completed
  split
  · next hs =>
    exact ⟨⟨rfl, by simp [Function.comp_def]⟩, fun h => h.restart hs _, rfl, fun _ => .inr (.inl rfl)⟩
  · exact ⟨⟨rfl, rfl⟩, fun h => h.congr rfl rfl rfl rfl rfl, rfl, id⟩

theorem Tributary.strays_follows (tr : Tributary) (n : BitVec 16) : tr.Follows { tr with strays := n } :=
  ⟨⟨rfl, rfl⟩, fun h => h.congr rfl rfl rfl rfl rfl, rfl, id⟩

theorem Tributary.Sound.placed_of_placementIn {tr : Tributary} (h : tr.Sound) {c : CarrierId}
    (hp : tr.placementIn c ≠ none) : tr.state = .active ∨ tr.state = .silent := by
  obtain ⟨p, hp⟩ := Option.ne_none_iff_exists'.1 hp
  exact h.placed.1 (List.ne_nil_of_mem (Tributary.placementIn_mem hp).1)

/-! ## Evaluations -/

/-- Step 7 keeps S between 256 and 1536 at a lag of 1 to 6 (R85). -/
theorem smooth_range {smoothed lag : Nat} (hs : 256 ≤ smoothed ∧ smoothed ≤ 1536) (hl : 1 ≤ lag ∧ lag ≤ 6) :
    256 ≤ smooth smoothed lag ∧ smooth smoothed lag ≤ 1536 := by
  unfold smooth
  rcases Int.le_total 0 (256 * (lag : Int) - smoothed) with h | h
  · rw [Int.tdiv_eq_ediv_of_nonneg h]
    omega
  · have hneg : (256 * (lag : Int) - smoothed).tdiv 8 = -((smoothed - 256 * (lag : Int)) / 8) := by
      rw [← Int.neg_sub, Int.neg_tdiv, Int.tdiv_eq_ediv_of_nonneg (by omega)]
    rw [hneg]
    omega

/-- A lag that takes no slip is 1 to 6 (R81). -/
theorem slipOf_eq_none {target lag : Nat} : slipOf target lag = none ↔ 1 ≤ lag ∧ lag ≤ 6 := by
  unfold slipOf
  split
  · simp; omega
  · split <;> simp <;> omega

/-- Steps 5 to 8 leave S in its range (R81, R85). -/
theorem advanced_smoothed (limits : Limits) (tr : Tributary) (p : Placement) (hl : 2 ≤ tr.targetLag ∧ tr.targetLag ≤ 5)
    (hs : 256 ≤ p.smoothed ∧ p.smoothed ≤ 1536) :
    256 ≤ (advanced limits tr p).placement.smoothed ∧ (advanced limits tr p).placement.smoothed ≤ 1536 := by
  refine smooth_range hs ?_
  cases hslip : slipOf tr.targetLag (tr.iw - (p.er + 1)).toNat with
  | none =>
    rw [Option.isSome_none, if_neg Bool.false_ne_true]
    exact slipOf_eq_none.1 hslip
  | some sl =>
    rw [Option.isSome_some, if_pos rfl]
    omega

theorem advanced_outcome_ne_silenced (limits : Limits) (tr : Tributary) (p : Placement) :
    (advanced limits tr p).outcome ≠ .silenced := by
  change slipOutcome _ ≠ _
  unfold slipOutcome
  split
  · decide
  · split <;> decide

/-- An evaluation leaves a sound placement record, its fresh mark gone, whatever mark it finds (R75 to R86). -/
theorem evaluation_placement_sound {limits : Limits} (hlimits : limits.Sound) {tr : Tributary} {p : Placement}
    (hl : 2 ≤ tr.targetLag ∧ tr.targetLag ≤ 5) (hp : Placement.Sound tr.state { p with fresh := false })
    (hstate : tr.state = .active ∨ tr.state = .silent) :
    (evaluation limits tr p).placement.Sound
      (if (evaluation limits tr p).outcome = .silenced then .silent else tr.state) := by
  have hquiet := hp.quiet
  have hsilence := hlimits.silence
  unfold evaluation
  split
  · exact hp
  · next hfresh =>
    have hfresh : p.fresh = false := by simpa using hfresh
    split
    · exact ⟨hp.smoothed, hp.quiet, hfresh⟩
    · next hsilent =>
      have hactive : tr.state = .active := hstate.resolve_right hsilent
      split
      · refine ⟨?_, ⟨Nat.zero_le 15, fun _ _ => Nat.zero_le 14⟩, hfresh⟩
        change 256 ≤ 256 * tr.targetLag ∧ 256 * tr.targetLag ≤ 1536
        omega
      · next hrestart =>
        have hrestart : p.restartPending = false := by simpa using hrestart
        have h14 : p.quiet ≤ 14 := hquiet.2 hactive hrestart
        have hq : (quieted tr p).quiet ≤ 15 := by
          unfold quieted
          dsimp only
          split <;> omega
        split
        · exact ⟨hp.smoothed, ⟨hq, nofun⟩, hfresh⟩
        · next hlow =>
          rw [if_neg (advanced_outcome_ne_silenced _ _ _)]
          have hlow' : (quieted tr p).quiet ≤ 14 := by omega
          exact ⟨advanced_smoothed limits tr (quieted tr p) hl hp.smoothed, ⟨hq, fun _ _ => hlow'⟩, hfresh⟩

/-- A tributary's record with the fresh mark of its placement in carrier c taken away. Within a cycle start of c such a mark
stands from step 3 to step 4; the record is sound but for it. -/
def Tributary.unmarked (tr : Tributary) (c : CarrierId) : Tributary :=
  { tr with placements := tr.placements.map fun p => if p.carrier = c then { p with fresh := false } else p }

theorem Tributary.Sound.unmarked {tr : Tributary} (h : tr.Sound) (c : CarrierId) : (tr.unmarked c).Sound := by
  have hsame : (tr.placements.map fun p => if p.carrier = c then { p with fresh := false } else p) = tr.placements := by
    conv_rhs => rw [← List.map_id tr.placements]
    refine List.map_congr_left fun p hp => ?_
    have hfresh := (h.placements p hp).fresh
    split
    · rw [← hfresh]; rfl
    · rfl
  exact h.congr rfl rfl rfl hsame rfl

theorem Tributary.sound_of_unmarked {tr : Tributary} {c : CarrierId} (h : (tr.unmarked c).Sound)
    (hp : tr.placementIn c = none) : tr.Sound := by
  have hsame : (tr.placements.map fun p => if p.carrier = c then { p with fresh := false } else p) = tr.placements := by
    conv_rhs => rw [← List.map_id tr.placements]
    exact List.map_congr_left fun p hm => if_neg (Tributary.placementIn_eq_none.1 hp p hm)
  exact h.congr rfl rfl rfl hsame.symm rfl

theorem Tributary.unmarked_carriers (tr : Tributary) (c : CarrierId) :
    (tr.unmarked c).placements.map (·.carrier) = tr.placements.map (·.carrier) := by
  unfold Tributary.unmarked
  rw [List.map_map]
  refine List.map_congr_left fun p _ => ?_
  dsimp only [Function.comp]
  split <;> rfl

/-- An evaluation of a placement makes its tributary's record sound (R74). -/
theorem Tributary.evaluated_sound {limits : Limits} (hlimits : limits.Sound) {tr : Tributary} {c : CarrierId} {p : Placement}
    (h : (tr.unmarked c).Sound) (hp : tr.placementIn c = some p) : (tr.evaluated c (evaluation limits tr p)).Sound := by
  obtain ⟨hmem, hcarrier⟩ := Tributary.placementIn_mem hp
  have hmem' : { p with fresh := false } ∈ (tr.unmarked c).placements :=
    List.mem_map.2 ⟨p, hmem, if_pos hcarrier⟩
  have hstate : tr.state = .active ∨ tr.state = .silent := h.placed.1 (List.ne_nil_of_mem hmem')
  obtain ⟨hw, hw', hl, hl'⟩ : 1 ≤ tr.width ∧ tr.width ≤ 60 ∧ 2 ≤ tr.targetLag ∧ tr.targetLag ≤ 5 := h.used (.inr hstate)
  have hplacement := evaluation_placement_sound hlimits ⟨hl, hl'⟩ (h.placements _ hmem') hstate
  have hec : (evaluation limits tr p).placement.carrier = c := (evaluation_carrier ..).trans hcarrier
  generalize evaluation limits tr p = e at hplacement hec
  have hstate' : (tr.evaluated c e).state = .active ∨ (tr.evaluated c e).state = .silent := by
    unfold Tributary.evaluated
    dsimp only
    split
    · exact .inr rfl
    · exact hstate
  have hcarriers := tr.evaluated_carriers c e hec
  exact {
    unused := by rcases hstate' with hs | hs <;> simp [hs]
    used := fun _ => ⟨hw, hw', hl, hl'⟩
    placed := ⟨fun _ => hstate', fun _ => List.ne_nil_of_mem (List.mem_map_of_mem hmem)⟩
    two := by
      have := h.two
      simpa [Tributary.evaluated, Tributary.unmarked] using this
    distinct := by
      rw [hcarriers, ← tr.unmarked_carriers c]
      exact h.distinct
    placements := by
      intro q hq
      obtain ⟨q', hq', rfl⟩ := List.mem_map.1 hq
      split
      · exact hplacement
      · next hne =>
        have hq'' := h.placements q' (List.mem_map.2 ⟨q', hq', if_neg hne⟩)
        refine ⟨hq''.smoothed, ⟨hq''.quiet.1, fun hact => ?_⟩, hq''.fresh⟩
        have : (if e.outcome = .silenced then .silent else tr.state) = TribState.active := hact
        split at this
        · cases this
        · exact hq''.quiet.2 this
    free := by rcases hstate' with hs | hs <;> simp [hs]
    retiring := by rcases hstate' with hs | hs <;> simp [hs] }

/-- Within a cycle start of carrier c, from step 3 to step 4: every record is sound but for a fresh mark in c. -/
def State.RecordsUnmarked (s : State) (c : CarrierId) : Prop := ∀ x : TribId, ((s.trib x).unmarked c).Sound

theorem State.RecordsUnmarked.evaluate {s : State} {c : CarrierId} (h : s.RecordsUnmarked c)
    (hl : s.processor.limits.Sound) (t : TribId) :
    (s.evaluate c t).RecordsUnmarked c ∧ (∀ x, (s.trib x).Sound → ((s.evaluate c t).trib x).Sound) ∧
      ((s.evaluate c t).trib t).Sound := by
  have hself : ((s.evaluate c t).trib t).Sound := by
    cases hp : (s.trib t).placementIn c with
    | none => rw [State.evaluate_of_none hp]; exact Tributary.sound_of_unmarked (h t) hp
    | some p => rw [State.evaluate_trib_self hp]; exact Tributary.evaluated_sound hl (h t) hp
  refine ⟨fun x => ?_, fun x hx => ?_, hself⟩
  · by_cases hx : x = t
    · subst hx; exact hself.unmarked c
    · rw [State.evaluate_trib_ne _ _ hx]; exact h x
  · by_cases hxt : x = t
    · subst hxt; exact hself
    · rw [State.evaluate_trib_ne _ _ hxt]; exact hx

theorem State.withDraws_trib (s : State) (d : Nat) (x : TribId) : ({ s with draws := d } : State).trib x = s.trib x := by
  unfold State.trib; rfl

/-- Step 4 leaves every record sound (R62, R74). -/
theorem State.RecordsUnmarked.evaluateAll {s : State} {c : CarrierId} (h : s.RecordsUnmarked c)
    (hl : s.processor.limits.Sound) (x : TribId) : ((s.evaluateAll c).trib x).Sound := by
  have fold : ∀ (l : List TribId) (w : State), w.RecordsUnmarked c → w.processor.limits.Sound →
      (x ∈ l ∨ (w.trib x).Sound) → ((l.foldl (fun s t => s.evaluate c t) w).trib x).Sound := by
    intro l
    induction l with
    | nil => exact fun w _ _ hx => hx.resolve_left List.not_mem_nil
    | cons t l ih =>
      intro w hw hwl hx
      obtain ⟨hrec, hkeep, hself⟩ := hw.evaluate hwl t
      refine ih _ hrec (by rw [(w.evaluate_keeps c t).processor]; exact hwl) ?_
      change _ ∨ ((w.evaluate c t).trib x).Sound
      obtain hx | hx := hx
      · obtain rfl | hx := List.mem_cons.1 hx
        · exact .inr hself
        · exact .inl hx
      · exact .inr (hkeep x hx)
  have hdraws := s.withDraws_trib (drawn (s.raisingIn c).length s.draws)
  refine fold (s.evaluationOrder c) { s with draws := drawn (s.raisingIn c).length s.draws }
    (fun y => by rw [hdraws]; exact h y) hl ?_
  rw [hdraws]
  by_cases hp : (s.trib x).placementIn c = none
  · exact .inr (Tributary.sound_of_unmarked (h x) hp)
  · exact .inl (State.mem_evaluationOrder.2 hp)

theorem State.evaluateAll_usable (s : State) (c : CarrierId) {x : TribId} (h : (s.trib x).Usable) :
    ((s.evaluateAll c).trib x).Usable := by
  have fold : ∀ (l : List TribId) (w : State), (w.trib x).Usable →
      ((l.foldl (fun s t => s.evaluate c t) w).trib x).Usable := by
    intro l
    induction l with
    | nil => exact fun _ hw => hw
    | cons t l ih =>
      intro w hw
      refine ih _ ?_
      change ((w.evaluate c t).trib x).Usable
      by_cases hx : x = t
      · subst hx
        cases hp : (w.trib x).placementIn c with
        | none => rw [State.evaluate_of_none hp]; exact hw
        | some p =>
          rw [State.evaluate_trib_self hp]
          unfold Tributary.Usable Tributary.evaluated
          dsimp only
          split
          · exact .inr (.inr rfl)
          · exact hw
      · rw [State.evaluate_trib_ne _ _ hx]; exact hw
  refine fold (s.evaluationOrder c) { s with draws := drawn (s.raisingIn c).length s.draws } ?_
  rw [s.withDraws_trib]
  exact h

/-! ## Map changes -/

/-- What the pending change finds of its tributary: what its admission tested (R13, R14, R15). -/
structure Tributary.Awaits (tr : Tributary) (kind : ChangeKind) (c : CarrierId) : Prop where
  placing : kind = .place → tr.Usable ∧ tr.placements.length < 2 ∧ tr.placementIn c = none
  moving : kind ≠ .place → tr.placementIn c ≠ none

theorem Tributary.Awaits.follows {a b : Tributary} {kind : ChangeKind} {c : CarrierId} (h : a.Awaits kind c)
    (hc : b.placements.map (·.carrier) = a.placements.map (·.carrier)) (hu : a.Usable → b.Usable) : b.Awaits kind c where
  placing hk := by
    obtain ⟨husable, hroom, hnone⟩ := h.placing hk
    have hlen := congrArg List.length hc
    rw [List.length_map, List.length_map] at hlen
    exact ⟨hu husable, hlen ▸ hroom, (Tributary.placementIn_congr hc c).2 hnone⟩
  moving hk := mt (Tributary.placementIn_congr hc c).1 (h.moving hk)

theorem newPlacement_sound {tr : Tributary} (hl : 2 ≤ tr.targetLag ∧ tr.targetLag ≤ 5) (c : CarrierId) (a : ApplyAt)
    (state : TribState) : Placement.Sound state { newPlacement tr c a with fresh := false } where
  smoothed := by
    change 256 ≤ 256 * tr.targetLag ∧ 256 * tr.targetLag ≤ 1536
    omega
  quiet := ⟨Nat.zero_le 15, fun _ _ => Nat.zero_le 14⟩
  fresh := rfl

/-- A PLACE adds a placement record, sound but for the fresh mark that it has at a cycle start (R20). -/
theorem Tributary.Sound.applied_place {tr : Tributary} (h : tr.Sound) {c : CarrierId} (ha : tr.Awaits .place c)
    (a : ApplyAt) : ((tr.applied .place c a).unmarked c).Sound := by
  obtain ⟨husable, hroom, hnone⟩ := ha.placing rfl
  obtain ⟨hw, hw', hl, hl'⟩ : 1 ≤ tr.width ∧ tr.width ≤ 60 ∧ 2 ≤ tr.targetLag ∧ tr.targetLag ≤ 5 := h.used husable
  have hstate : (tr.applied .place c a).state = .active ∨ (tr.applied .place c a).state = .silent := by
    change (if tr.state = .idle then .active else tr.state) = _ ∨ (if tr.state = .idle then .active else tr.state) = _
    rcases husable with hs | hs | hs <;> simp [hs]
  have hcarriers : ((tr.applied .place c a).unmarked c).placements.map (·.carrier) =
      tr.placements.map (·.carrier) ++ [c] := by
    rw [Tributary.unmarked_carriers]
    simp [Tributary.applied, newPlacement]
  exact {
    unused := by
      change (tr.applied .place c a).state = _ ∨ (tr.applied .place c a).state = _ → _
      rcases hstate with hs | hs <;> rw [hs] <;> simp
    used := fun _ => ⟨hw, hw', hl, hl'⟩
    placed := ⟨fun _ => hstate, fun _ => by simp [Tributary.unmarked, Tributary.applied]⟩
    two := by
      have := congrArg List.length hcarriers
      simp only [List.length_map, List.length_append, List.length_singleton] at this
      omega
    distinct := by
      rw [hcarriers]
      have hnot := Tributary.placementIn_eq_none_iff_carriers.1 hnone
      exact List.nodup_append.2 ⟨h.distinct, List.nodup_singleton c, fun x hx y hy hxy =>
        hnot (by rw [← List.mem_singleton.1 hy, ← hxy]; exact hx)⟩
    placements := by
      intro q hq
      obtain ⟨q', hq', rfl⟩ := List.mem_map.1 hq
      rcases List.mem_append.1 hq' with hq' | hq'
      · have hold := h.placements q' hq'
        have hactive : tr.state ≠ .idle := fun hidle => by
          have := h.placed.1 (List.ne_nil_of_mem hq')
          rw [hidle] at this
          rcases this with h' | h' <;> cases h'
        have hsame : ((tr.applied .place c a).unmarked c).state = tr.state := if_neg hactive
        rw [hsame, if_neg (Tributary.placementIn_eq_none.1 hnone q' hq')]
        exact hold
      · rw [List.mem_singleton.1 hq', if_pos (show (newPlacement tr c a).carrier = c from rfl)]
        exact newPlacement_sound ⟨hl, hl'⟩ c a _
    free := by
      change (tr.applied .place c a).state = _ → _
      rcases hstate with hs | hs <;> rw [hs] <;> simp
    retiring := by
      change (tr.applied .place c a).state = _ → _
      rcases hstate with hs | hs <;> rw [hs] <;> simp }

/-- An UNPLACE takes a placement record away, and a tributary with none left becomes IDLE (R22, R32). -/
theorem Tributary.Sound.applied_unplace {tr : Tributary} (h : tr.Sound) {c : CarrierId} (hp : tr.placementIn c ≠ none)
    (a : ApplyAt) : (tr.applied .unplace c a).Sound := by
  have hplaced := h.placed_of_placementIn hp
  have hused := h.used (.inr hplaced)
  have hstate : (tr.applied .unplace c a).state =
      if (tr.placements.filter fun p => p.carrier ≠ c) = [] then .idle else tr.state := by
    change (if (tr.placements.filter fun p => p.carrier ≠ c).isEmpty && _ then _ else _) = _
    rcases hplaced with hs | hs <;> simp only [hs, List.isEmpty_iff, Bool.and_eq_true] <;> simp
  exact {
    unused := by
      rw [hstate]
      split <;> rcases hplaced with hs | hs <;> simp [hs]
    used := fun _ => hused
    placed := by
      rw [hstate]
      change (tr.placements.filter fun p => p.carrier ≠ c) ≠ [] ↔ _
      split
      · next hnil => simp only [hnil]; simp
      · next hne => exact ⟨fun _ => hplaced, fun _ => hne⟩
    two := (List.length_filter_le _ _).trans h.two
    distinct := h.distinct.sublist (List.filter_sublist.map _)
    placements := fun q hq => by
      have hold := h.placements q (List.mem_of_mem_filter hq)
      have hne : (tr.placements.filter fun p => p.carrier ≠ c) ≠ [] := List.ne_nil_of_mem hq
      rw [hstate, if_neg hne]
      exact hold
    free := by
      rw [hstate]
      split <;> rcases hplaced with hs | hs <;> simp [hs]
    retiring := by
      rw [hstate]
      split <;> rcases hplaced with hs | hs <;> simp [hs] }

/-- The application of a change that was admitted leaves a record that is sound but for a fresh mark (R20, R21, R22). -/
theorem Tributary.Sound.applied_unmarked {tr : Tributary} (h : tr.Sound) {kind : ChangeKind} {c : CarrierId}
    (ha : tr.Awaits kind c) (a : ApplyAt) : ((tr.applied kind c a).unmarked c).Sound := by
  cases kind with
  | place => exact h.applied_place ha a
  | regroom => exact h.unmarked c
  | unplace => exact (h.applied_unplace (ha.moving nofun) a).unmarked c

/-- At its deadline a change sets no fresh mark, and the record is sound (R18). -/
theorem Tributary.Sound.applied_expiry {tr : Tributary} (h : tr.Sound) {kind : ChangeKind} {c : CarrierId}
    (ha : tr.Awaits kind c) : (tr.applied kind c .expiry).Sound := by
  cases kind with
  | place =>
    have hnone := (ha.placing rfl).2.2
    refine (h.applied_place ha .expiry).congr rfl rfl rfl ?_ rfl
    unfold Tributary.unmarked Tributary.applied
    dsimp only
    rw [List.map_append]
    congr 1
    · conv_lhs => rw [← List.map_id tr.placements]
      exact List.map_congr_left fun p hm => (if_neg (Tributary.placementIn_eq_none.1 hnone p hm)).symm
    · simp [newPlacement]
  | regroom => exact h
  | unplace => exact h.applied_unplace (ha.moving nofun) .expiry

end Sys2Proof.Machine
end

section
/-! SUPPORT. The tributary records and the in-flight counts (R27, R29, R30, R34, R35, R85) through every event: ingress writes,
acceptances, the end of sub-reads, commands, cycle starts and the deadline, and the statement that every step keeps them. -/

namespace Sys2Proof.Machine

theorem Reported.subReads {s t : State} (h : Reported s t) : t.translation.subReads = s.translation.subReads := by
  rw [h.translation]

theorem State.TributariesSound.awaits {s : State} (h : s.TributariesSound) {ch : PendingChange} (hc : s.change = some ch) :
    (s.trib ch.trib).Awaits ch.kind ch.carrier := ⟨h.placing ch hc, h.moving ch hc⟩

/-- The soundness of the tributaries, put together from the records, the counts and the pending change. -/
theorem State.tributariesSound_of {s : State} (records : ∀ u, (s.trib u).Sound)
    (inFlight : ∀ u, (s.trib u).inFlight = s.entriesNaming u)
    (awaits : ∀ ch, s.change = some ch → (s.trib ch.trib).Awaits ch.kind ch.carrier) : s.TributariesSound :=
  ⟨records, inFlight, fun ch hc => (awaits ch hc).placing, fun ch hc => (awaits ch hc).moving⟩

theorem State.TributariesSound.follow {s t : State} (h : s.TributariesSound) (htrib : ∀ u, (s.trib u).Follows (t.trib u))
    (hsub : t.translation.subReads = s.translation.subReads) (hchange : t.change = s.change) : t.TributariesSound :=
  State.tributariesSound_of (fun u => (htrib u).sound (h.records u))
    (fun u => by rw [(htrib u).inFlight, h.inFlight]; unfold State.entriesNaming; rw [hsub])
    (fun ch hc => (h.awaits (hchange ▸ hc)).follows (htrib _).carriers (htrib _).usable)

theorem State.TributariesSound.congr {s t : State} (h : s.TributariesSound) (htrib : t.tributaries = s.tributaries)
    (hsub : t.translation.subReads = s.translation.subReads) (hchange : t.change = s.change) : t.TributariesSound :=
  h.follow (fun u => .of_eq (by unfold State.trib; rw [htrib])) hsub hchange

theorem Reported.tributariesSound {s t : State} (h : Reported s t) (hs : s.TributariesSound) : t.TributariesSound :=
  hs.congr h.tributaries h.subReads h.change

/-! ## Ingress writes -/

theorem State.setTrib_follows {s : State} {t : TribId} {r : Tributary} (h : (s.trib t).Follows r) (u : TribId) :
    (s.trib u).Follows ((s.setTrib t r).trib u) := by
  by_cases hu : u = t
  · subst hu; rw [State.trib_setTrib_self]; exact h
  · rw [State.trib_setTrib_ne _ _ _ _ hu]; exact .refl _

theorem State.trackWrite_follows (s : State) (w : UWrite) (u : TribId) : (s.trib u).Follows ((s.trackWrite w).trib u) := by
  have reported : ∀ {r : Tributary} {v : State}, (s.trib (tribOf w.address)).Follows r →
      Reported (s.setTrib (tribOf w.address) r) v → (s.trib u).Follows (v.trib u) := fun hr hv => by
    rw [hv.trib]; exact State.setTrib_follows hr u
  have hcompleted := (s.trib (tribOf w.address)).completed_follows (pageOf w.address)
  unfold State.trackWrite State.completePage State.straySlot
  dsimp only
  split
  · split
    · split
      · exact reported hcompleted ((report_reported _ _).trans (raise_reported _ _))
      · split
        · exact reported hcompleted (report_reported _ _)
        · exact reported hcompleted ((report_reported _ _).trans (raise_reported _ _))
    · exact reported (Tributary.strays_follows _ _) (report_reported _ _)
    · exact .refl _
    · exact .refl _
  · exact .refl _

theorem State.trackWrite_translation (s : State) (w : UWrite) : (s.trackWrite w).translation = s.translation := by
  have reported : ∀ {r : Tributary} {v : State}, Reported (s.setTrib (tribOf w.address) r) v →
      v.translation = s.translation := fun hv => hv.translation
  unfold State.trackWrite State.completePage State.straySlot
  dsimp only
  split
  · split
    · split
      · exact reported ((report_reported _ _).trans (raise_reported _ _))
      · split
        · exact reported (report_reported _ _)
        · exact reported ((report_reported _ _).trans (raise_reported _ _))
    · exact reported (report_reported _ _)
    · rfl
    · rfl
  · rfl

theorem State.handPost_tributaries (s : State) (n : BitVec 16) : (s.handPost n).tributaries = s.tributaries := by
  unfold State.handPost
  split
  · dsimp only
    split <;> rfl
  · exact (raise_reported s _).tributaries

theorem State.handPost_translation (s : State) (n : BitVec 16) : (s.handPost n).translation = s.translation := by
  unfold State.handPost
  split
  · dsimp only
    split <;> rfl
  · exact (raise_reported s _).translation

theorem State.handPost_change (s : State) (n : BitVec 16) : (s.handPost n).change = s.change := by
  unfold State.handPost
  split
  · dsimp only
    split <;> rfl
  · exact (raise_reported s _).change

theorem State.handTake_tributaries (s : State) (n : BitVec 16) : (s.handTake n).tributaries = s.tributaries := by
  unfold State.handTake
  dsimp only
  split <;> rfl

theorem State.handTake_translation (s : State) (n : BitVec 16) : (s.handTake n).translation = s.translation := by
  unfold State.handTake
  dsimp only
  split <;> rfl

theorem State.noteWrite_follows (s : State) (w : UWrite) (u : TribId) : (s.trib u).Follows ((s.noteWrite w).trib u) := by
  unfold State.noteWrite
  split
  · exact s.trackWrite_follows w u
  · split
    · exact .of_eq (by unfold State.trib; rw [State.handPost_tributaries])
    · split
      · exact .of_eq (by unfold State.trib; rw [State.handTake_tributaries])
      · exact .refl _

theorem State.noteWrite_translation (s : State) (w : UWrite) : (s.noteWrite w).translation = s.translation := by
  unfold State.noteWrite
  split
  · exact s.trackWrite_translation w
  · split
    · exact s.handPost_translation _
    · split
      · exact s.handTake_translation _
      · rfl

theorem State.noteWrite_change (s : State) (w : UWrite) : (s.noteWrite w).change = s.change := by
  unfold State.noteWrite
  split
  · exact (s.trackWrite_keepsControl w).change
  · split
    · exact s.handPost_change _
    · split
      · exact (s.handTake_keepsControl _).change
      · rfl

theorem State.TributariesSound.forward {s : State} (h : s.TributariesSound) (w : UWrite) :
    ((s.forwardWrite w).noteWrite w).TributariesSound :=
  have hforward : (s.forwardWrite w).TributariesSound :=
    Reported.tributariesSound (report_reported (s.enqueue _) _) (h.congr rfl rfl rfl)
  hforward.follow (State.noteWrite_follows _ w) (by rw [State.noteWrite_translation]) (State.noteWrite_change _ w)

/-! ## Sub-read entries -/

/-- An entry is counted for the tributary that it names while it is not FREE (R34). -/
def SubRead.names (e : SubRead) (u : TribId) : Bool := e.state ≠ .free && e.trib == some u

/-- Replacing an entry moves the count of the entries that name a tributary by what the old and the new one weigh. -/
theorem State.entriesNaming_replaced {s t : State} {k : Fin 64} {e : SubRead}
    (h : t.translation.subReads = s.translation.subReads.set k e) (u : TribId) :
    t.entriesNaming u + (if (s.sub k).names u then 1 else 0) = s.entriesNaming u + (if e.names u then 1 else 0) := by
  have := countTable_set (SubRead.names · u) s.translation.subReads k e
  rw [← h] at this
  exact this

/-- An entry replaced by one that counts for the same tributary leaves the records and counts as sound as they were. -/
theorem State.TributariesSound.replaceEntry {s t : State} (h : s.TributariesSound) {k : Fin 64} {e : SubRead}
    (hsub : t.translation.subReads = s.translation.subReads.set k e) (hnames : ∀ u, e.names u = (s.sub k).names u)
    (htrib : t.tributaries = s.tributaries) (hchange : t.change = s.change) : t.TributariesSound := by
  have hsame : ∀ u, t.trib u = s.trib u := fun u => by unfold State.trib; rw [htrib]
  refine State.tributariesSound_of (fun u => hsame u ▸ h.records u) (fun u => ?_)
    (fun ch hc => hsame ch.trib ▸ h.awaits (hchange ▸ hc))
  have := State.entriesNaming_replaced hsub u
  rw [hnames] at this
  rw [hsame, h.inFlight]
  omega

/-- One more sub-read for a tributary that is placed. -/
theorem Tributary.Sound.issued {tr : Tributary} (h : tr.Sound) (hs : tr.state = .active ∨ tr.state = .silent) :
    Tributary.Sound { tr with inFlight := tr.inFlight + 1 } where
  unused := h.unused
  used := h.used
  placed := h.placed
  two := h.two
  distinct := h.distinct
  placements := h.placements
  free hf := by rcases hs with hs | hs <;> rw [hs] at hf <;> cases hf
  retiring _ := Nat.succ_ne_zero _

/-- One sub-read less; a RETIRING tributary with none left becomes FREE (R35). -/
theorem Tributary.Sound.released {tr : Tributary} (h : tr.Sound) :
    Tributary.Sound { tr with
      inFlight := tr.inFlight - 1
      state := if tr.state = .retiring ∧ tr.inFlight ≤ 1 then .free else tr.state } := by
  by_cases hr : tr.state = .retiring ∧ tr.inFlight ≤ 1
  · rw [if_pos hr]
    obtain ⟨hs, hle⟩ := hr
    have hnone : tr.placements = [] := by
      by_contra hne
      rcases h.placed.1 hne with h' | h' <;> rw [hs] at h' <;> cases h'
    exact {
      unused := fun _ => h.unused (.inr hs)
      used := by rintro (h' | h' | h') <;> cases h'
      placed := ⟨fun hne => absurd hnone hne, by rintro (h' | h') <;> cases h'⟩
      two := h.two
      distinct := h.distinct
      placements := fun p hp => by rw [hnone] at hp; cases hp
      free := fun _ => Nat.sub_eq_zero_of_le hle
      retiring := nofun }
  · rw [if_neg hr]
    exact {
      unused := h.unused
      used := h.used
      placed := h.placed
      two := h.two
      distinct := h.distinct
      placements := h.placements
      free := fun hf => by simp [h.free hf]
      retiring := fun hs => by
        have : ¬tr.inFlight ≤ 1 := fun hle => hr ⟨hs, hle⟩
        change tr.inFlight - 1 ≠ 0
        omega }

theorem Releases.subReads {s r t : State} {k : Fin 64} (h : Releases s r t k) :
    t.translation.subReads = s.translation.subReads.set k { s.sub k with state := .free } := by
  obtain ⟨hself, hothers, -⟩ := h
  exact subReads_eq_set hself hothers

theorem Releases.samePlaces {s r t : State} {k : Fin 64} (h : Releases s r t k) (u : TribId) :
    (s.trib u).SamePlaces (t.trib u) := by
  obtain ⟨-, -, hother, hnamed, -⟩ := h
  by_cases hu : (s.sub k).trib = some u
  · rw [hnamed u hu]; exact ⟨rfl, rfl⟩
  · exact .of_eq (hother u hu)

theorem State.TributariesSound.releases {s r t : State} (h : s.TributariesSound) {k : Fin 64} (hr : Releases s r t k)
    (hk : (s.sub k).state ≠ .free) : t.TributariesSound := by
  have hplaces := hr.samePlaces
  have hsub := hr.subReads
  obtain ⟨-, -, hother, hnamed, -, -, -, -, -, hchange, -⟩ := hr
  have hcount : ∀ u, t.entriesNaming u + (if (s.sub k).trib = some u then 1 else 0) = s.entriesNaming u := by
    intro u
    have := State.entriesNaming_replaced hsub u
    simpa [SubRead.names, hk] using this
  refine State.tributariesSound_of (fun u => ?_) (fun u => ?_) (fun ch hc => ?_)
  · by_cases hu : (s.sub k).trib = some u
    · rw [hnamed u hu]; exact (h.records u).released
    · rw [hother u hu]; exact h.records u
  · have hu' := hcount u
    by_cases hu : (s.sub k).trib = some u
    · rw [if_pos hu] at hu'
      rw [hnamed u hu]
      change (s.trib u).inFlight - 1 = _
      rw [h.inFlight]
      omega
    · rw [if_neg hu] at hu'
      rw [hother u hu, h.inFlight]
      omega
  · refine (h.awaits (hchange ▸ hc)).follows (hplaces _).carriers fun husable => ?_
    by_cases hu : (s.sub k).trib = some ch.trib
    · rw [hnamed _ hu]
      have hnot : ¬((s.trib ch.trib).state = .retiring ∧ (s.trib ch.trib).inFlight ≤ 1) := fun hr => by
        rcases husable with h' | h' | h' <;> rw [hr.1] at h' <;> cases h'
      unfold Tributary.Usable
      dsimp only
      rw [if_neg hnot]
      exact husable
    · rw [hother _ hu]; exact husable

theorem State.release_releases (s : State) (k : Fin 64) : Releases s s (s.release k) k :=
  (s.release_spec s k rfl rfl rfl rfl rfl rfl rfl rfl rfl).1

theorem State.TributariesSound.release {s : State} (h : s.TributariesSound) {k : Fin 64} (hk : (s.sub k).state ≠ .free) :
    (s.release k).TributariesSound := h.releases (s.release_releases k) hk

theorem State.accountParent_subReads (s : State) (i : Fin 32) (p : Parent) (o : Option Occurrence) :
    (s.accountParent i p o).translation.subReads = s.translation.subReads := by
  obtain ⟨-, -, -, hsub, -⟩ := s.accountParent_spec i p o
  exact hsub

theorem State.accountParent_tributaries (s : State) (i : Fin 32) (p : Parent) (o : Option Occurrence) :
    (s.accountParent i p o).tributaries = s.tributaries := by
  obtain ⟨-, -, -, -, -, htrib, -⟩ := s.accountParent_spec i p o
  exact htrib

theorem State.TributariesSound.accountParent {s : State} (h : s.TributariesSound) (i : Fin 32) (p : Parent)
    (o : Option Occurrence) : (s.accountParent i p o).TributariesSound :=
  h.congr (s.accountParent_tributaries i p o) (s.accountParent_subReads i p o) (s.accountParent_keepsControl i p o).change

theorem State.TributariesSound.answer {s : State} (h : s.TributariesSound) {k : Fin 64} (hk : (s.sub k).state = .issued)
    (result : MemResult) (words : List Word) : (s.answer k result words).TributariesSound := by
  refine State.TributariesSound.release (k := k) (h.accountParent _ _ _) ?_
  unfold State.sub
  rw [State.accountParent_subReads]
  exact fun hf => by rw [show s.translation.subReads[k].state = .issued from hk] at hf; cases hf

theorem State.TributariesSound.expireSub {s : State} (h : s.TributariesSound) {k : Fin 64}
    (hk : (s.sub k).state = .issued) : (s.expireSub k).TributariesSound := by
  have hset : (s.setSub k { s.sub k with state := .expired }).TributariesSound :=
    h.replaceEntry rfl (fun u => by simp [SubRead.names, hk]) rfl rfl
  exact hset.accountParent _ _ _

/-! ## Acceptances -/

/-- Every piece stands on read words of its tributary (R101). -/
theorem cutPieces_trib {k : Nat} {kinds : List WordKind} {p : Piece} (hp : p ∈ cutPieces k kinds) :
    ∃ slot page, .read p.trib slot page ∈ kinds := by
  induction kinds generalizing k p with
  | nil => simp [cutPieces] at hp
  | cons x rest ih =>
    have hrest : p ∈ cutPieces (k + 1) rest → ∃ slot page, .read p.trib slot page ∈ x :: rest := fun h => by
      obtain ⟨slot, page, hm⟩ := ih h
      exact ⟨slot, page, List.mem_cons_of_mem _ hm⟩
    cases x with
    | unassigned => exact hrest (by simpa [cutPieces] using hp)
    | alarm t => exact hrest (by simpa [cutPieces] using hp)
    | read t slot page =>
      unfold cutPieces at hp
      split at hp
      · next q qs _ hq =>
        obtain rfl | hp := List.mem_cons.1 hp
        · obtain ⟨slot', page', hm⟩ := ih (k := k + 1) (p := q) (hq ▸ List.mem_cons_self ..)
          exact ⟨slot', page', List.mem_cons_of_mem _ hm⟩
        · exact hrest (by rw [hq]; exact List.mem_cons_of_mem _ hp)
      · obtain rfl | hp := List.mem_cons.1 hp
        · exact ⟨slot, page, List.mem_cons_self ..⟩
        · exact hrest hp

/-- A read word's tributary is placed in the carrier that is read (R100). -/
theorem State.placementIn_of_wordKind_read {s : State} {c : CarrierId} {g : Nat} {t : TribId} {slot : Nat} {page : BitVec 3}
    (h : s.wordKind c g = .read t slot page) : (s.trib t).placementIn c ≠ none := by
  unfold State.wordKind at h
  split at h
  · cases h
  · split at h
    · cases h
    · next hp =>
      split at h
      · cases h
      · cases h; rw [hp]; exact Option.some_ne_none _

theorem State.piece_placed {s : State} {r : URead} {p : Piece} (hp : p ∈ cutPieces 0 (s.wordKinds r)) :
    (s.trib p.trib).placementIn (windowCarrier r.address) ≠ none := by
  obtain ⟨slot, page, hm⟩ := cutPieces_trib hp
  obtain ⟨g, -, hg⟩ := List.mem_map.1 hm
  exact State.placementIn_of_wordKind_read hg

theorem State.freeSubs_state {s : State} {k : Fin 64} (h : k ∈ s.freeSubs) : (s.sub k).state = .free := by
  simpa using (List.mem_filter.1 h).2

theorem State.freeSubs_congr {s t : State} (h : t.translation.subReads = s.translation.subReads) :
    t.freeSubs = s.freeSubs := by
  unfold State.freeSubs State.sub; rw [h]

theorem State.TributariesSound.issuePiece {s : State} (h : s.TributariesSound) (i : Fin 32) (c : CarrierId) (p : Piece)
    {k : Fin 64} {rest : List (Fin 64)} (hk : s.freeSubs = k :: rest)
    (hp : (s.trib p.trib).state = .active ∨ (s.trib p.trib).state = .silent) : (s.issuePiece i c p).TributariesSound := by
  have hfree : (s.sub k).state = .free := State.freeSubs_state (hk ▸ List.mem_cons_self ..)
  obtain ⟨-, hself, hothers, htrib, -, -, -, -, -, hchange, -⟩ := s.issuePiece_spec i c p k rest hk
  have hsub := subReads_eq_set hself hothers
  refine State.tributariesSound_of (fun u => ?_) (fun u => ?_) (fun ch hc => ?_)
  · rw [htrib]
    split
    · next hu => subst hu; exact (h.records _).issued hp
    · exact h.records u
  · have := State.entriesNaming_replaced hsub u
    rw [htrib]
    change (s.trib u).inFlight + _ = _
    rw [h.inFlight]
    simpa [SubRead.names, hfree, State.pieceEntry] using this.symm
  · refine (h.awaits (hchange ▸ hc)).follows ?_ ?_ <;> rw [htrib]
    exact id

theorem State.TributariesSound.issuePieces (i : Fin 32) (c : CarrierId) (ps : List Piece) {s : State}
    (h : s.TributariesSound) (hlen : ps.length ≤ s.freeSubs.length)
    (hps : ∀ p ∈ ps, (s.trib p.trib).state = .active ∨ (s.trib p.trib).state = .silent) :
    (ps.foldl (fun s p => s.issuePiece i c p) s).TributariesSound := by
  induction ps generalizing s with
  | nil => exact h
  | cons p ps ih =>
    obtain ⟨k, rest, hk⟩ : ∃ k rest, s.freeSubs = k :: rest :=
      List.exists_cons_of_ne_nil fun hnil => by rw [hnil] at hlen; exact absurd hlen (Nat.not_succ_le_zero _)
    obtain ⟨hrest, -, -, htrib, -⟩ := s.issuePiece_spec i c p k rest hk
    rw [hk] at hlen
    refine ih (h.issuePiece i c p hk (hps p (List.mem_cons_self ..))) ?_ fun q hq => ?_
    · rw [hrest]; exact Nat.le_of_succ_le_succ hlen
    · rw [htrib]; exact hps q (List.mem_cons_of_mem _ hq)

theorem State.TributariesSound.openParent {s : State} (h : s.TributariesSound) (i : Fin 32) (r : URead) (cls : ReadClass)
    (c : Option CarrierId) (words : List (Option Word)) (status : Status) (n : Nat) :
    (s.openParent i r cls c words status n).TributariesSound := h.congr rfl rfl rfl

/-- An entry that names no tributary is taken. -/
theorem State.TributariesSound.allocate {s : State} (h : s.TributariesSound) (i : Fin 32) (first length : Nat)
    (c : Option CarrierId) (a : Addr) (o : Origin) : (s.allocate i first length none c a o).TributariesSound := by
  unfold State.allocate
  split
  · exact h
  · next k hk =>
    have hfree : (s.sub k).state = .free := of_decide_eq_true (lowest?_spec hk).1
    exact h.replaceEntry rfl (fun u => by simp [SubRead.names, hfree]) rfl rfl

theorem State.TributariesSound.acceptTranslated {s : State} (h : s.TributariesSound) (i : Fin 32) (r : URead)
    (hn : (cutPieces 0 (s.wordKinds r)).length ≤ s.freeSubReads) : (s.acceptTranslated i r).TributariesSound := by
  unfold State.acceptTranslated
  dsimp only
  generalize ho : s.openParent i r .translated _ _ _ _ = o
  have hopen : o.TributariesSound := ho ▸ h.openParent ..
  have hsame : o.tributaries = s.tributaries ∧ o.translation.subReads = s.translation.subReads := ho ▸ ⟨rfl, rfl⟩
  have hrep := foldl_report_reported (⟨.carrierReads, 1, some (windowCarrier r.address), none⟩ ::
      fillOccurrences o.draws (windowCarrier r.address) (s.wordKinds r))
    { o with draws := drawn (alarmTribs o.draws (s.wordKinds r)).length o.draws }
  refine State.TributariesSound.issuePieces i _ _ (hrep.tributariesSound (hopen.congr rfl rfl rfl)) ?_ fun p hp => ?_
  · rw [State.freeSubs_congr (hrep.subReads.trans hsame.2), ← State.freeSubReads_eq]
    exact hn
  · rw [hrep.trib, State.withDraws_trib]
    unfold State.trib
    rw [hsame.1]
    exact (h.records p.trib).placed_of_placementIn (State.piece_placed hp)

theorem State.TributariesSound.acceptRead {s : State} (h : s.TributariesSound) (i : Fin 32) (r : URead)
    (hn : s.subReadsNeeded r ≤ s.freeSubReads) : (s.acceptRead i r).TributariesSound := by
  unfold State.acceptRead
  unfold State.subReadsNeeded at hn
  split
  · next hclass =>
    rw [hclass] at hn
    exact h.acceptTranslated i r hn
  · exact h.openParent ..
  · exact ((report_reported _ _).trans (report_reported _ _)).tributariesSound (h.openParent ..)
  · exact (raise_reported _ _).tributariesSound (h.openParent ..)
  · exact (report_reported _ _).tributariesSound ((h.openParent ..).allocate ..)

/-! ## Commands -/

theorem State.TributariesSound.setTrib {s : State} (h : s.TributariesSound) (hc : s.change = none) {t : TribId}
    {r : Tributary} (hr : r.Sound) (hi : r.inFlight = (s.trib t).inFlight) : (s.setTrib t r).TributariesSound := by
  refine State.tributariesSound_of (fun u => ?_) (fun u => ?_) (fun ch hch => ?_)
  · by_cases hu : u = t
    · subst hu; rw [State.trib_setTrib_self]; exact hr
    · rw [State.trib_setTrib_ne _ _ _ _ hu]; exact h.records u
  · change _ = s.entriesNaming u
    rw [← h.inFlight]
    by_cases hu : u = t
    · subst hu; rw [State.trib_setTrib_self]; exact hi
    · rw [State.trib_setTrib_ne _ _ _ _ hu]
  · rw [State.setTrib_change, hc] at hch; cases hch

/-- A tributary that is neither ACTIVE nor SILENT has no placements (R29). -/
theorem Tributary.Sound.placements_eq_nil {tr : Tributary} (h : tr.Sound) (ha : tr.state ≠ .active) (hs : tr.state ≠ .silent) :
    tr.placements = [] := by
  by_contra hne
  rcases h.placed.1 hne with h' | h'
  · exact ha h'
  · exact hs h'

theorem clamp_range (lo hi n : Nat) (h : lo ≤ hi) : lo ≤ clamp lo hi n ∧ clamp lo hi n ≤ hi := by
  unfold clamp; omega

theorem Tributary.Sound.attached {tr : Tributary} (h : tr.Sound) (hf : tr.state = .free) {width lag fill : Byte}
    (hw : 1 ≤ width.toNat) (hw' : width.toNat ≤ 60) : (tr.attached width lag fill).Sound := by
  have hnil : tr.placements = [] := h.placements_eq_nil (by rw [hf]; decide) (by rw [hf]; decide)
  obtain ⟨hl, hl'⟩ := clamp_range 2 5 lag.toNat (by decide)
  exact {
    unused := by rintro (h' | h') <;> cases h'
    used := fun _ => ⟨hw, hw', hl, hl'⟩
    placed := ⟨fun hne => absurd hnil hne, by rintro (h' | h') <;> cases h'⟩
    two := h.two
    distinct := h.distinct
    placements := fun p hp => by rw [show (tr.attached width lag fill).placements = [] from hnil] at hp; cases hp
    free := nofun
    retiring := nofun }

/-- A record out of use: no placements, width 0, FREE with nothing in flight or RETIRING with something (R31, R34, R35). -/
theorem Tributary.sound_of_out_of_use {tr : Tributary} (hp : tr.placements = []) (hw : tr.width = 0)
    (hs : (tr.state = .free ∧ tr.inFlight = 0) ∨ (tr.state = .retiring ∧ tr.inFlight ≠ 0)) : tr.Sound where
  unused _ := hw
  used := by rcases hs with ⟨hs, -⟩ | ⟨hs, -⟩ <;> simp [hs]
  placed := by rcases hs with ⟨hs, -⟩ | ⟨hs, -⟩ <;> simp [hs, hp]
  two := by simp [hp]
  distinct := by simp [hp]
  placements := by simp [hp]
  free := by rcases hs with ⟨hs, hi⟩ | ⟨hs, -⟩ <;> simp [hs]; exact hi
  retiring := by rcases hs with ⟨hs, -⟩ | ⟨hs, hi⟩ <;> simp [hs]; exact hi

theorem Tributary.emptied_sound (tr : Tributary) : tr.emptied.Sound := by
  refine Tributary.sound_of_out_of_use rfl rfl ?_
  by_cases hi : tr.inFlight = 0
  · exact .inl ⟨if_pos hi, hi⟩
  · exact .inr ⟨if_neg hi, hi⟩

theorem CommandWork.tributariesSound {s w : State} (hw : CommandWork s w) (h : s.TributariesSound) (hc : s.change = none) :
    w.TributariesSound := by
  cases hw with
  | attach t width lag fill hlo hhi hfree =>
    exact h.setTrib hc ((h.records t).attached hfree hlo hhi) rfl
  | detach t hidle hnone =>
    have hnil := (h.records t).placements_eq_nil (by rw [hidle]; decide) (by rw [hidle]; decide)
    exact (raise_reported _ _).tributariesSound
      (h.setTrib hc (Tributary.sound_of_out_of_use hnil rfl (.inl ⟨rfl, hnone⟩)) rfl)
  | retire t hidle hsome =>
    have hnil := (h.records t).placements_eq_nil (by rw [hidle]; decide) (by rw [hidle]; decide)
    exact h.setTrib hc (Tributary.sound_of_out_of_use hnil rfl (.inr ⟨rfl, hsome⟩)) rfl
  | clearCounts t => exact h.setTrib hc ((h.records t).congr rfl rfl rfl rfl rfl) rfl
  | mark v => exact (raise_reported _ _).tributariesSound h
  | clearTables =>
    refine State.tributariesSound_of (fun u => ?_) (fun u => ?_) (fun ch hch => ?_)
    · rw [State.emptyTables_trib]; exact Tributary.emptied_sound _
    · rw [State.emptyTables_trib]; exact h.inFlight u
    · rw [show s.emptyTables.change = none from hc] at hch; cases hch
  | _ => exact h.congr rfl rfl rfl

theorem Admission.awaits {s : State} {kind : ChangeKind} {t : TribId} {c : CarrierId} {ps : List Position}
    (h : Admission s kind t c ps) : (s.trib t).Awaits kind c := by
  cases h with
  | place _ _ _ _ _ _ _ husable hnone hroom _ => exact ⟨fun _ => ⟨husable, hroom, hnone⟩, fun hne => absurd rfl hne⟩
  | regroom _ _ _ _ _ _ hplaced _ => exact ⟨nofun, fun _ => hplaced⟩
  | unplace _ _ hplaced => exact ⟨nofun, fun _ => hplaced⟩

theorem State.TributariesSound.completeWith {s : State} (h : s.TributariesSound) (g : Option (List Position))
    (code : Completion) (data : List Byte) : (s.completeWith g code data).TributariesSound :=
  h.congr (State.completeWith_tributaries ..) (by rw [State.completeWith_translation]) (s.completeWith_change g code data)

theorem State.TributariesSound.run {s : State} (hs : s.ProcessorSound) (h : s.TributariesSound)
    (hi : s.response.fetch.issued = true) (r : Record) (c : Command) : ((s.beginCommand r).run c).TributariesSound := by
  have hchange := hs.change_none_of_issued hi
  have hbegun : (s.beginCommand r).TributariesSound := h.congr rfl rfl rfl
  obtain ⟨w, code, data, hw, hrun⟩ | ⟨kind, t, d, ps, hadmit, hrun⟩ := (s.beginCommand r).run_runsTo c
  · rw [hrun]; exact (hw.tributariesSound hbegun hchange).completeWith none code data
  · rw [hrun]
    refine State.tributariesSound_of hbegun.records hbegun.inFlight fun ch hch => ?_
    cases hch
    exact hadmit.awaits

/-! ## Map changes and cycle starts -/

theorem State.applyChange_change (s : State) (ch : PendingChange) (a : ApplyAt) : (s.applyChange ch a).change = none :=
  State.completeWith_change ..

theorem State.applyChange_translation (s : State) (ch : PendingChange) (a : ApplyAt) :
    (s.applyChange ch a).translation = s.translation := State.completeWith_translation ..

/-- At its deadline the pending change leaves the records sound (R18). -/
theorem State.TributariesSound.applyChange {s : State} (h : s.TributariesSound) {ch : PendingChange}
    (hc : s.change = some ch) : (s.applyChange ch .expiry).TributariesSound := by
  have hown := (s.trib ch.trib).applied_sameOwn ch.kind ch.carrier .expiry
  refine State.tributariesSound_of (fun u => ?_) (fun u => ?_) (fun ch' hch => ?_)
  · rw [State.applyChange_trib]
    split
    · exact (h.records _).applied_expiry (h.awaits hc)
    · exact h.records u
  · have hcount : (s.applyChange ch .expiry).entriesNaming u = s.entriesNaming u := by
      unfold State.entriesNaming; rw [State.applyChange_translation]
    rw [hcount, ← h.inFlight, State.applyChange_trib]
    split
    · next hu => subst hu; exact hown.inFlight
    · rfl
  · rw [State.applyChange_change] at hch; cases hch

/-- Steps 4 and 5 from records that step 3 left sound but for the fresh marks (R62). -/
theorem State.RecordsUnmarked.finishCycle {s : State} {c : CarrierId} (h : s.RecordsUnmarked c)
    (hl : s.processor.limits.Sound) (hinFlight : ∀ u, (s.trib u).inFlight = s.entriesNaming u)
    (hawaits : ∀ ch, s.change = some ch → (s.trib ch.trib).Awaits ch.kind ch.carrier) (s0 : State)
    (q : Option PendingChange) : ((s.evaluateAll c).recomputeIndications c s0 s q).TributariesSound := by
  have hkeeps := s.evaluateAll_keeps c
  have hevaluated : (s.evaluateAll c).TributariesSound := by
    refine State.tributariesSound_of (h.evaluateAll hl) (fun u => ?_) (fun ch hch => ?_)
    · rw [(s.evaluateAll_sameOwn c u).inFlight, hinFlight]
      unfold State.entriesNaming
      rw [hkeeps.translation]
    · exact (hawaits ch (hkeeps.change ▸ hch)).follows (hkeeps.carriers _) (s.evaluateAll_usable c)
  exact hevaluated.follow (fun u => .of_eq (State.recomputeIndications_trib ..))
    (by rw [(State.recomputeIndications_keeps ..).translation]) (State.recomputeIndications_keeps ..).change

theorem State.TributariesSound.cycleStart {s : State} (hs : s.ProcessorSound) (h : s.TributariesSound) (c : CarrierId)
    (p : BitVec 3) : (s.cycleStart c p).TributariesSound := by
  obtain ⟨hchange, htranslation, hresponse, hprocessor, -, -, -, -, htrib, -⟩ := s.countCycle_takePage_spec c p
  have hcounted : ((s.takePage c p).countCycle c).TributariesSound := h.congr htrib (by rw [htranslation]) hchange
  have hprocessor0 : ((s.takePage c p).countCycle c).ProcessorSound := hs.congr hprocessor (by rw [hresponse]) hchange
  unfold State.cycleStart
  dsimp only
  generalize (s.takePage c p).countCycle c = s0 at hcounted hprocessor0
  split
  · next ch hfor =>
    obtain ⟨hch, hcarrier⟩ := State.changeFor_eq_some hfor
    have hown := (s0.trib ch.trib).applied_sameOwn ch.kind ch.carrier .cycleStart
    refine State.RecordsUnmarked.finishCycle (fun u => ?_) (hprocessor0.applyChange hch _).limits (fun u => ?_) (fun ch' hch' => ?_) _ _
    · rw [State.applyChange_trib]
      split
      · rw [← hcarrier]; exact (hcounted.records _).applied_unmarked (hcounted.awaits hch) _
      · exact (hcounted.records u).unmarked c
    · have hcount : (s0.applyChange ch .cycleStart).entriesNaming u = s0.entriesNaming u := by
        unfold State.entriesNaming; rw [State.applyChange_translation]
      rw [hcount, ← hcounted.inFlight, State.applyChange_trib]
      split
      · next hu => subst hu; exact hown.inFlight
      · rfl
    · rw [State.applyChange_change] at hch'; cases hch'
  · exact State.RecordsUnmarked.finishCycle (fun u => (hcounted.records u).unmarked c) hprocessor0.limits hcounted.inFlight
      (fun ch => hcounted.awaits) _ _

/-! ## Reset, and every event -/

theorem Tributary.reset_sound : Tributary.reset.Sound := Tributary.sound_of_out_of_use rfl rfl (.inl ⟨rfl, rfl⟩)

theorem State.reset_trib (u : TribId) : State.reset.trib u = .reset := by
  unfold State.trib State.reset
  simp

theorem State.reset_entriesNaming (u : TribId) : State.reset.entriesNaming u = 0 := by
  unfold State.entriesNaming
  rw [countTable_eq_zero]
  intro k
  simp [State.reset, Translation.reset, SubRead.reset]

theorem State.reset_tributariesSound : State.reset.TributariesSound :=
  State.tributariesSound_of (fun u => State.reset_trib u ▸ Tributary.reset_sound)
    (fun u => by rw [State.reset_entriesNaming, State.reset_trib]; rfl) nofun

/-- The soundness of the tributaries, beside that of the processor, survives everything that can happen. -/
theorem tributaries_stepClosed : StepClosed fun s => s.ProcessorSound ∧ s.TributariesSound where
  channel s c h := ⟨processor_stepClosed.channel s c h.1, h.2.congr rfl rfl rfl⟩
  pending s p h := ⟨processor_stepClosed.pending s p h.1, h.2.congr rfl rfl rfl⟩
  stray s w h := ⟨processor_stepClosed.stray s w h.1, (raise_reported s _).tributariesSound h.2⟩
  forward s w h hr hf := ⟨processor_stepClosed.forward s w h.1 hr hf, h.2.forward w⟩
  hold s r b h := ⟨processor_stepClosed.hold s r b h.1, by
    unfold State.holdRead
    split
    · exact h.2
    · exact (report_reported s _).tributariesSound h.2⟩
  cycle s c p h hon := ⟨processor_stepClosed.cycle s c p h.1 hon, .cycleStart h.1 h.2 c p⟩
  accept s i r h hi hn := ⟨processor_stepClosed.accept s i r h.1 hi hn, h.2.acceptRead i r hn⟩
  stale s h := ⟨processor_stepClosed.stale s h.1, (report_reported s _).tributariesSound h.2⟩
  run s r c h hi := ⟨processor_stepClosed.run s r c h.1 hi, .run h.1 h.2 hi r c⟩
  fetchFails s h hi := ⟨processor_stepClosed.fetchFails s h.1 hi,
    State.TributariesSound.completeWith (s := s.freeFetch) (h.2.congr rfl rfl rfl) none _ _⟩
  answer s k result words h hk := ⟨processor_stepClosed.answer s k result words h.1 hk, h.2.answer hk result words⟩
  late s k h hk := ⟨processor_stepClosed.late s k h.1 hk, by
    have hrep := report_reported s ⟨.lateArrivals, 1, (s.sub k).carrier, (s.sub k).trib⟩
    exact (hrep.tributariesSound h.2).release (by rw [hrep.sub, hk]; decide)⟩
  depart s i rest h hr := ⟨processor_stepClosed.depart s i rest h.1 hr, by
    have hkeeps := s.depart_keepsControl i
    refine h.2.congr ?_ ?_ hkeeps.change <;> unfold State.depart <;> dsimp only <;> rw [State.noteFreed_eq] <;> rfl⟩
  apply s ch h hc := ⟨processor_stepClosed.apply s ch h.1 hc, h.2.applyChange hc⟩
  expire s k h hk := ⟨processor_stepClosed.expire s k h.1 hk, h.2.expireSub hk⟩
  abandon s k h hk := ⟨processor_stepClosed.abandon s k h.1 hk, by
    have hrep := raise_reported s (.readAbandoned (s.sub k).carrier (s.sub k).trib k (s.sub k).address)
    exact (hrep.tributariesSound h.2).release (by rw [hrep.sub, hk]; decide)⟩
  tick s h := ⟨processor_stepClosed.tick s h.1, h.2.congr rfl rfl rfl⟩
  reset s h := ⟨processor_stepClosed.reset s h.1, State.reset_tributariesSound.congr rfl rfl rfl⟩
  taken s q rest h hq := ⟨processor_stepClosed.taken s q rest h.1 hq, h.2.congr rfl rfl rfl⟩

/-- Settles O56: the records and the counts are sound after every event, hence after every step. -/
theorem everyStepKeepsTributaries : Obligations.EveryStepKeepsTributaries := fun s t hp h hstep =>
  (tributaries_stepClosed.step s t ⟨hp, h⟩ hstep).2

end Sys2Proof.Machine
end

section
/-! SUPPORT. The pick allocator (R9, R10): which runs it considers, which one it takes, and what SCATTER takes; and the
statement about it. -/

namespace Sys2Proof.Machine

/-- Position i of a map can be taken: it is UNASSIGNED or held by the placement whose positions count as free (R9). -/
def FreeAt (own : Option TribId) (m : CarrierMap) (i : Nat) : Prop := i < 240 ∧ isFree own (m.toList.getD i none) = true

theorem isFree_iff {own : Option TribId} {e : Option MapEntry} :
    isFree own e = true ↔ match e with
      | none => True
      | some e => own = some e.trib := by
  cases e <;> simp [isFree]

theorem toList_getD (m : CarrierMap) (p : Position) : m.toList.getD p.val none = m[p] := by
  simp

theorem freeAt_val {own : Option TribId} {m : CarrierMap} {p : Position} : FreeAt own m p.val ↔ isFree own m[p] = true := by
  unfold FreeAt
  rw [toList_getD]
  exact ⟨fun h => h.2, fun h => ⟨p.isLt, h⟩⟩

/-- Numbers of positions, all in range, are the positions' numbers. -/
theorem map_val_filterMap_toPosition? {l : List Nat} (h : ∀ n ∈ l, n < 240) :
    (l.filterMap toPosition?).map (fun p => p.val) = l := by
  induction l with
  | nil => rfl
  | cons n l ih =>
    have hn : toPosition? n = some ⟨n, h n (List.mem_cons_self ..)⟩ := dif_pos _
    rw [List.filterMap_cons_some hn, List.map_cons, ih fun k hk => h k (List.mem_cons_of_mem _ hk)]

/-! ## Contiguous candidates -/

/-- The free flags of a run, all set (R9). -/
theorem run_all_free {own : Option TribId} {m : CarrierMap} {g w : Nat} (hg : g + w ≤ 240) :
    (((m.toList.map (isFree own)).drop g).take w).all id = true ↔ ∀ k, k < w → FreeAt own m (g + k) := by
  rw [List.all_eq_true]
  constructor
  · intro h k hk
    refine ⟨by omega, ?_⟩
    refine h _ (List.mem_iff_getElem.2 ⟨k, ?_, ?_⟩)
    · simp; omega
    · have : g + k < 240 := by omega
      simp [List.getD, this]
      rfl
  · intro h b hb
    obtain ⟨k, hk, rfl⟩ := List.mem_iff_getElem.1 hb
    have hk' : k < w := by simp at hk; omega
    have hlt : g + k < 240 := by omega
    have := (h k hk').2
    simpa [List.getD, hlt] using this

theorem mem_candidates {own : Option TribId} {m : CarrierMap} {g w : Nat} (hw : 1 ≤ w) (hw' : w ≤ 240) :
    g ∈ candidates w (m.toList.map (isFree own)) ↔ ∀ k, k < w → FreeAt own m (g + k) := by
  unfold candidates
  rw [List.mem_filter, List.mem_range]
  constructor
  · rintro ⟨hg, hall⟩
    exact (run_all_free (by omega)).1 hall
  · intro h
    have hlast : g + (w - 1) < 240 := (h (w - 1) (by omega)).1
    have hg : g + w ≤ 240 := by omega
    exact ⟨by omega, (run_all_free hg).2 h⟩

/-- The candidates stand in order, lowest first (R9). -/
theorem candidates_ascending (w : Nat) (free : List Bool) : (candidates w free).Pairwise (· < ·) :=
  List.Pairwise.filter _ List.pairwise_lt_range

/-- Candidate g is at least as good as h: fewer pieces, or as many and not above it (R9). -/
def AsGood (w g h : Nat) : Prop :=
  candidatePieces g w < candidatePieces h w ∨ (candidatePieces g w = candidatePieces h w ∧ g ≤ h)

theorem bestCandidate_eq_none {w : Nat} {l : List Nat} : bestCandidate w l = none ↔ l = [] := by
  cases l with
  | nil => simp [bestCandidate]
  | cons g rest =>
    unfold bestCandidate
    split
    · simp
    · split <;> simp

/-- The candidate taken is one of the list, and as good as each of it (R9). -/
theorem bestCandidate_spec {w : Nat} {l : List Nat} {g : Nat} (hl : l.Pairwise (· < ·)) (h : bestCandidate w l = some g) :
    g ∈ l ∧ ∀ g0 ∈ l, AsGood w g g0 := by
  induction l generalizing g with
  | nil => cases h
  | cons x rest ih =>
    obtain ⟨hx, hrest⟩ := List.pairwise_cons.1 hl
    unfold bestCandidate at h
    split at h
    · next hnone =>
      cases h
      rw [bestCandidate_eq_none.1 hnone]
      exact ⟨List.mem_singleton_self _, fun g0 hg0 => .inr (by simp_all)⟩
    · next y hy =>
      obtain ⟨hmem, hbest⟩ := ih hrest hy
      split at h
      · next hle =>
        cases h
        refine ⟨List.mem_cons_self .., fun g0 hg0 => ?_⟩
        obtain rfl | hg0 := List.mem_cons.1 hg0
        · exact .inr ⟨rfl, le_rfl⟩
        · have hlt := hx g0 hg0
          unfold AsGood
          rcases hbest g0 hg0 with hb | ⟨hb, -⟩ <;> omega
      · next hlt =>
        cases h
        refine ⟨List.mem_cons_of_mem _ hmem, fun g0 hg0 => ?_⟩
        obtain rfl | hg0 := List.mem_cons.1 hg0
        · exact .inl (Nat.not_le.1 hlt)
        · exact hbest g0 hg0

/-! ## SCATTER -/

/-- The numbers of the free positions, lowest first (R10). -/
def freeNumbers (own : Option TribId) (m : CarrierMap) : List Nat :=
  (((m.toList.map (isFree own)).zipIdx.filter (·.1)).map (·.2))

theorem mem_freeNumbers {own : Option TribId} {m : CarrierMap} {i : Nat} : i ∈ freeNumbers own m ↔ FreeAt own m i := by
  have hget : (m.toList.map (isFree own))[i]? = some true ↔ FreeAt own m i := by
    unfold FreeAt
    by_cases hi : i < 240
    · simp [hi, List.getD]
    · simp [hi]
  rw [← hget]
  unfold freeNumbers
  simp [List.mem_zipIdx_iff_getElem?]

theorem freeNumbers_ascending (own : Option TribId) (m : CarrierMap) : (freeNumbers own m).Pairwise (· < ·) := by
  unfold freeNumbers
  refine List.Pairwise.sublist (List.filter_sublist.map _) ?_
  rw [List.zipIdx_map_snd]
  exact List.pairwise_lt_range'

theorem length_freeNumbers (own : Option TribId) (m : CarrierMap) :
    (freeNumbers own m).length = m.toList.countP (isFree own) := by
  unfold freeNumbers
  rw [List.length_map, ← List.countP_eq_length_filter]
  calc (m.toList.map (isFree own)).zipIdx.countP (·.1)
      = ((m.toList.map (isFree own)).zipIdx.map (·.1)).countP id := by rw [List.countP_map]; rfl
    _ = m.toList.countP (isFree own) := by rw [List.zipIdx_map_fst, List.countP_map]; rfl

theorem scattered?_eq_none {own : Option TribId} {m : CarrierMap} {w : Nat} :
    scattered? w (m.toList.map (isFree own)) = none ↔ m.toList.countP (isFree own) < w := by
  have hlen := length_freeNumbers own m
  unfold scattered?
  change (if ((freeNumbers own m).take w).length = w then _ else none) = none ↔ _
  rw [List.length_take, ← hlen]
  split
  · next h => simp only [reduceCtorEq, false_iff]; omega
  · next h => simp only [true_iff]; omega

/-- What SCATTER takes: the w lowest free positions, in order (R10). -/
theorem scattered?_spec {own : Option TribId} {m : CarrierMap} {w : Nat} {ps : List Position}
    (h : scattered? w (m.toList.map (isFree own)) = some ps) :
    ps.map (fun p => p.val) = (freeNumbers own m).take w ∧ ps.length = w := by
  unfold scattered? at h
  change (if ((freeNumbers own m).take w).length = w then some (((freeNumbers own m).take w).filterMap toPosition?)
    else none) = some ps at h
  split at h
  · next hlen =>
    cases h
    have hval := map_val_filterMap_toPosition? (l := (freeNumbers own m).take w) fun n hn =>
      (mem_freeNumbers.1 (List.mem_of_mem_take hn)).1
    refine ⟨hval, ?_⟩
    have := congrArg List.length hval
    rwa [List.length_map, hlen] at this
  · cases h

/-! ## The allocator -/

theorem pick?_of_candidate {own : Option TribId} {m : CarrierMap} {w : Nat} {scatter : Bool} {g : Nat}
    (h : bestCandidate w (candidates w (m.toList.map (isFree own))) = some g) :
    pick? w scatter own m = some (((List.range w).map (g + ·)).filterMap toPosition?) := by
  unfold pick?
  dsimp only
  rw [h]

theorem pick?_of_no_candidate {own : Option TribId} {m : CarrierMap} {w : Nat} {scatter : Bool}
    (h : bestCandidate w (candidates w (m.toList.map (isFree own))) = none) :
    pick? w scatter own m = if scatter then scattered? w (m.toList.map (isFree own)) else none := by
  unfold pick?
  dsimp only
  rw [h]

theorem bestCandidate_eq_none_iff {own : Option TribId} {m : CarrierMap} {w : Nat} (hw : 1 ≤ w) (hw' : w ≤ 240) :
    bestCandidate w (candidates w (m.toList.map (isFree own))) = none ↔
      ¬∃ g0, ∀ k, k < w → FreeAt own m (g0 + k) := by
  rw [bestCandidate_eq_none, List.eq_nil_iff_forall_not_mem, not_exists]
  exact forall_congr' fun g => not_congr (mem_candidates hw hw')

theorem val_of_candidate {own : Option TribId} {m : CarrierMap} {w g : Nat} (h : ∀ k, k < w → FreeAt own m (g + k)) :
    (((List.range w).map (g + ·)).filterMap toPosition?).map (fun p => p.val) = (List.range w).map (g + ·) := by
  refine map_val_filterMap_toPosition? fun n hn => ?_
  obtain ⟨k, hk, rfl⟩ := List.mem_map.1 hn
  exact (h k (List.mem_range.1 hk)).1

/-- Numbers in ascending order, positions in ascending order. -/
theorem pairwise_lt_of_val {ps : List Position} {l : List Nat} (h : ps.map (fun p => p.val) = l) (hl : l.Pairwise (· < ·)) :
    ps.Pairwise (· < ·) := by
  rw [← h, List.pairwise_map] at hl
  exact hl

/-- Whatever the allocator takes is distinct, free and as long as the tributary is wide (R9, R10). -/
theorem pick?_sound {w : Nat} {scatter : Bool} {own : Option TribId} {m : CarrierMap} {ps : List Position} (hw : 1 ≤ w)
    (hw' : w ≤ 240) (h : pick? w scatter own m = some ps) :
    ps.Nodup ∧ ps.length = w ∧ ∀ p ∈ ps, isFree own m[p] = true := by
  suffices hnum : ∃ l : List Nat, ps.map (fun p => p.val) = l ∧ l.Pairwise (· < ·) ∧ l.length = w ∧ ∀ n ∈ l, FreeAt own m n by
    obtain ⟨l, hval, hasc, hlen, hfree⟩ := hnum
    refine ⟨(pairwise_lt_of_val hval hasc).imp fun h => ne_of_lt h, ?_, fun p hp => ?_⟩
    · rw [← hlen, ← hval, List.length_map]
    · exact freeAt_val.1 (hfree _ (hval ▸ List.mem_map_of_mem hp))
  cases hbest : bestCandidate w (candidates w (m.toList.map (isFree own))) with
  | some g =>
    rw [pick?_of_candidate hbest] at h
    cases h
    have hg := (mem_candidates hw hw').1 (bestCandidate_spec (candidates_ascending _ _) hbest).1
    refine ⟨_, val_of_candidate hg, ?_, by simp, fun n hn => ?_⟩
    · exact List.pairwise_map.2 (List.pairwise_lt_range.imp fun h => Nat.add_lt_add_left h g)
    · obtain ⟨k, hk, rfl⟩ := List.mem_map.1 hn
      exact hg k (List.mem_range.1 hk)
  | none =>
    rw [pick?_of_no_candidate hbest] at h
    split at h
    · obtain ⟨hval, hlen⟩ := scattered?_spec h
      refine ⟨_, hval, (freeNumbers_ascending own m).sublist (List.take_sublist ..), ?_, fun n hn =>
        mem_freeNumbers.1 (List.mem_of_mem_take hn)⟩
      rw [← hval, List.length_map, hlen]
    · cases h

theorem candidatePieces_eq (g0 w : Nat) :
    candidatePieces g0 w =
      1 + ((List.range w).filter fun k => k ≠ 0 ∧ ((g0 + k) % 8 = 0 ∨ k % 8 = 0)).length := by
  unfold candidatePieces
  congr 2
  refine List.filter_congr fun k _ => ?_
  rw [Bool.eq_iff_iff]
  simp

/-- Settles O51: a best candidate where there is one, else what SCATTER takes of the free positions. -/
theorem pickTakesFewestPieces : Obligations.PickTakesFewestPieces := by
  intro w scatter own m hw hw' free candidate pieces
  have hw240 : w ≤ 240 := by omega
  have hfree : ∀ i, free i ↔ FreeAt own m i := fun i => and_congr_right fun _ => isFree_iff.symm
  have hcandidate : ∀ g, candidate g ↔ ∀ k, k < w → FreeAt own m (g + k) := fun g =>
    forall_congr' fun k => imp_congr_right fun _ => hfree (g + k)
  have hpieces : ∀ g, candidatePieces g w = pieces g := fun g => candidatePieces_eq g w
  have hnone : bestCandidate w (candidates w (m.toList.map (isFree own))) = none ↔ ¬∃ g0, candidate g0 := by
    simp only [hcandidate]
    exact bestCandidate_eq_none_iff hw hw240
  refine ⟨fun hsome => ?_, fun hno hscatter => ?_, fun hno hscatter => ⟨fun ps hps => ?_, ?_⟩⟩
  · cases hbest : bestCandidate w (candidates w (m.toList.map (isFree own))) with
    | none => exact absurd hsome (hnone.1 hbest)
    | some g =>
      obtain ⟨hmem, hgood⟩ := bestCandidate_spec (candidates_ascending _ _) hbest
      have hg := (mem_candidates hw hw240).1 hmem
      refine ⟨_, g, pick?_of_candidate hbest, val_of_candidate hg, (hcandidate g).2 hg, fun g0 hg0 => ?_⟩
      rw [← hpieces, ← hpieces]
      exact hgood g0 ((mem_candidates hw hw240).2 ((hcandidate g0).1 hg0))
  · rw [pick?_of_no_candidate (hnone.2 hno), hscatter]
    rfl
  · rw [pick?_of_no_candidate (hnone.2 hno), if_pos hscatter] at hps
    obtain ⟨hval, hlen⟩ := scattered?_spec hps
    have hasc := freeNumbers_ascending own m
    refine ⟨hlen, pairwise_lt_of_val hval (hasc.sublist (List.take_sublist ..)), fun p hp => ?_, fun i hi hnot p hp => ?_⟩
    · have : p.val ∈ (freeNumbers own m).take w := hval ▸ List.mem_map_of_mem hp
      exact (hfree _).2 (mem_freeNumbers.1 (List.mem_of_mem_take this))
    · have hp' : p.val ∈ (freeNumbers own m).take w := hval ▸ List.mem_map_of_mem hp
      have hi' : i.val ∈ (freeNumbers own m).drop w := by
        have hmem := mem_freeNumbers.2 ((hfree _).1 hi)
        rw [← List.take_append_drop w (freeNumbers own m), List.mem_append] at hmem
        refine hmem.resolve_left fun htake => hnot ?_
        rw [← hval, List.mem_map] at htake
        obtain ⟨q, hq, hqi⟩ := htake
        rwa [← Fin.ext hqi]
      rw [← List.take_append_drop w (freeNumbers own m), List.pairwise_append] at hasc
      exact hasc.2.2 _ hp' _ hi'
  · rw [pick?_of_no_candidate (hnone.2 hno), if_pos hscatter]
    exact scattered?_eq_none

end Sys2Proof.Machine
end

section
/-! SUPPORT. The maps (R1, R2, R8, R31): what a map change writes, position by position; which position lists a map command
passes; and the statement that every step keeps the maps and the placement records in agreement. -/

namespace Sys2Proof.Machine

/-! ## The map that a change leaves, position by position -/

theorem namesTrib_eq_true {t : TribId} {o : Option MapEntry} : namesTrib t o = true ↔ ∃ e, o = some e ∧ e.trib = t := by
  cases o <;> simp [namesTrib]

theorem clearEntries_eq_some {t : TribId} {m : CarrierMap} {i : Position} {e : MapEntry} :
    (clearEntries t m)[i] = some e ↔ m[i] = some e ∧ e.trib ≠ t := by
  unfold clearEntries
  rw [mapTable_get]
  split
  · next h =>
    obtain ⟨e', he', ht⟩ := namesTrib_eq_true.1 h
    rw [he']
    constructor
    · nofun
    · rintro ⟨h', hne⟩; cases h'; exact absurd ht hne
  · next h =>
    refine ⟨fun h' => ⟨h', fun ht => h (namesTrib_eq_true.2 ⟨e, h', ht⟩)⟩, fun h' => h'.1⟩

/-- The writing of a list's positions, its slots counted from n. -/
def writeFrom (t : TribId) (n : Nat) (ps : List Position) (m : CarrierMap) : CarrierMap :=
  (ps.zipIdx n).foldl (fun m pi => m.set pi.1 (some ⟨t, pi.2⟩)) m

theorem writeFrom_cons (t : TribId) (n : Nat) (p : Position) (ps : List Position) (m : CarrierMap) :
    writeFrom t n (p :: ps) m = writeFrom t (n + 1) ps (m.set p (some ⟨t, n⟩)) := rfl

theorem writeFrom_of_not_mem {t : TribId} {n : Nat} {ps : List Position} {m : CarrierMap} {i : Position} (h : i ∉ ps) :
    (writeFrom t n ps m)[i] = m[i] := by
  induction ps generalizing n m with
  | nil => rfl
  | cons p ps ih =>
    obtain ⟨hp, hps⟩ := not_or.1 (mt List.mem_cons.2 h)
    rw [writeFrom_cons, ih hps]
    exact Vector.getElem_set_ne _ _ fun hv => hp (Fin.ext hv.symm)

theorem writeFrom_of_getElem? {t : TribId} {n : Nat} {ps : List Position} {m : CarrierMap} (hn : ps.Nodup) {k : Nat}
    {i : Position} (hk : ps[k]? = some i) : (writeFrom t n ps m)[i] = some ⟨t, n + k⟩ := by
  induction ps generalizing n m k with
  | nil => cases hk
  | cons p ps ih =>
    obtain ⟨hp, hps⟩ := List.nodup_cons.1 hn
    rw [writeFrom_cons]
    cases k with
    | zero =>
      cases hk
      rw [writeFrom_of_not_mem hp]
      exact Vector.getElem_set_self _
    | succ k =>
      rw [ih hps (List.getElem?_cons_succ ▸ hk), Nat.add_right_comm, Nat.add_assoc]

theorem writeEntries_of_not_mem {t : TribId} {ps : List Position} {m : CarrierMap} {i : Position} (h : i ∉ ps) :
    (writeEntries t ps m)[i] = m[i] := writeFrom_of_not_mem (n := 0) h

theorem writeEntries_of_getElem? {t : TribId} {ps : List Position} {m : CarrierMap} (hn : ps.Nodup) {k : Nat}
    {i : Position} (hk : ps[k]? = some i) : (writeEntries t ps m)[i] = some ⟨t, k⟩ := by
  have := writeFrom_of_getElem? (t := t) (n := 0) (m := m) hn hk
  rwa [Nat.zero_add] at this

/-- A list is written: its positions take the slots in order, and the rest stays. -/
theorem writeEntries_eq_some {t : TribId} {ps : List Position} {m : CarrierMap} (hn : ps.Nodup) {i : Position} {e : MapEntry} :
    (writeEntries t ps m)[i] = some e ↔ (∃ k, ps[k]? = some i ∧ e = ⟨t, k⟩) ∨ (i ∉ ps ∧ m[i] = some e) := by
  by_cases hi : i ∈ ps
  · obtain ⟨k, hk⟩ := List.mem_iff_getElem?.1 hi
    rw [writeEntries_of_getElem? hn hk]
    constructor
    · intro h
      cases h
      exact .inl ⟨k, hk, rfl⟩
    · rintro (⟨k', hk', rfl⟩ | ⟨hnot, -⟩)
      · rw [(List.getElem?_inj (List.getElem?_eq_some_iff.1 hk).1 hn).1 (hk.trans hk'.symm)]
      · exact absurd hi hnot
  · rw [writeEntries_of_not_mem hi]
    refine ⟨fun h => .inr ⟨hi, h⟩, ?_⟩
    rintro (⟨k, hk, -⟩ | ⟨-, h⟩)
    · exact absurd (List.mem_of_getElem? hk) hi
    · exact h

/-- What the map of a carrier offers a change: its positions are distinct and none holds another tributary's entry, and for a
PLACE the tributary has no entry yet (R8, R13, R14). -/
structure ChangeFits (kind : ChangeKind) (t : TribId) (ps : List Position) (m : CarrierMap) : Prop where
  nodup : kind ≠ .unplace → ps.Nodup
  free : kind ≠ .unplace → ∀ p ∈ ps, ∀ e, m[p] = some e → e.trib = t
  absent : kind = .place → ∀ (i : Position) e, m[i] = some e → e.trib ≠ t

/-- The map after a change: the changed placement's slots at the list's positions, and every entry of another tributary where
it stood (R20, R21, R22). -/
theorem ChangeFits.changedMap_eq_some {kind : ChangeKind} {t : TribId} {ps : List Position} {m : CarrierMap}
    (h : ChangeFits kind t ps m) {i : Position} {e : MapEntry} :
    (changedMap kind t ps m)[i] = some e ↔
      (kind ≠ .unplace ∧ ∃ k, ps[k]? = some i ∧ e = ⟨t, k⟩) ∨ (m[i] = some e ∧ e.trib ≠ t) := by
  have outside : ∀ hk : kind ≠ .unplace, m[i] = some e → e.trib ≠ t → i ∉ ps := fun hk hm hne hi => hne (h.free hk i hi e hm)
  cases kind with
  | place =>
    refine (writeEntries_eq_some (h.nodup nofun)).trans (or_congr ⟨fun h' => ⟨nofun, h'⟩, fun h' => h'.2⟩ ?_)
    exact ⟨fun ⟨_, hm⟩ => ⟨hm, h.absent rfl i e hm⟩, fun ⟨hm, hne⟩ => ⟨outside nofun hm hne, hm⟩⟩
  | regroom =>
    refine (writeEntries_eq_some (h.nodup nofun)).trans (or_congr ⟨fun h' => ⟨nofun, h'⟩, fun h' => h'.2⟩ ?_)
    rw [clearEntries_eq_some]
    exact ⟨fun h' => h'.2, fun ⟨hm, hne⟩ => ⟨outside nofun hm hne, hm, hne⟩⟩
  | unplace =>
    refine clearEntries_eq_some.trans ⟨.inr, ?_⟩
    rintro (⟨hne, -⟩ | h')
    · exact absurd rfl hne
    · exact h'

/-- Where a tributary is placed after the change of its placement in carrier c (R20, R21, R22). -/
theorem Tributary.applied_placementIn {tr : Tributary} {kind : ChangeKind} {c : CarrierId} (ha : tr.Awaits kind c)
    (a : ApplyAt) (d : CarrierId) :
    (tr.applied kind c a).placementIn d ≠ none ↔ if d = c then kind ≠ .unplace else tr.placementIn d ≠ none := by
  have hiff : ∀ (v : Tributary), v.placementIn d ≠ none ↔ d ∈ v.placements.map (·.carrier) := fun v =>
    (not_congr Tributary.placementIn_eq_none_iff_carriers).trans not_not
  cases kind with
  | place =>
    rw [hiff, hiff]
    have hcarriers : (tr.applied .place c a).placements.map (·.carrier) = tr.placements.map (·.carrier) ++ [c] := by
      simp [Tributary.applied, newPlacement]
    rw [hcarriers, List.mem_append, List.mem_singleton]
    split
    · next hd => simp [hd]
    · next hd => simp [hd]
  | regroom =>
    split
    · next hd => subst hd; exact ⟨fun _ => nofun, fun _ => ha.moving nofun⟩
    · rfl
  | unplace =>
    rw [hiff, hiff]
    split
    · next hd => subst hd; simp [Tributary.applied]
    · next hd =>
      simp only [Tributary.applied, List.mem_map, List.mem_filter, decide_eq_true_eq]
      exact ⟨fun ⟨p, ⟨hp, _⟩, hpd⟩ => ⟨p, hp, hpd⟩, fun ⟨p, hp, hpd⟩ => ⟨p, ⟨hp, hpd ▸ hd⟩, hpd⟩⟩

/-! ## The lists that a map command passes -/

theorem length_of_mapM_toPosition? {l : List Byte} {ps : List Position} (h : (l.mapM fun b => toPosition? b.toNat) = some ps) :
    ps.length = l.length := by
  induction l generalizing ps with
  | nil => cases h; rfl
  | cons b l ih =>
    rw [List.mapM_cons] at h
    simp only [Option.bind_eq_bind, Option.bind_eq_some_iff, Option.pure_def, Option.some.injEq] at h
    obtain ⟨p, -, qs, hqs, rfl⟩ := h
    rw [List.length_cons, List.length_cons, ih hqs]

theorem listedPositions?_sound {w : Nat} {grains : List Byte} {ps : List Position} (h : listedPositions? w grains = some ps) :
    ps.Nodup ∧ ps.length = w := by
  unfold listedPositions? at h
  split at h
  · next hq =>
    split at h
    · next hn =>
      cases h
      exact ⟨hn, (length_of_mapM_toPosition? hq).trans (length_padTo w grains)⟩
    · cases h
  · cases h

/-- The positions that pass are distinct, as many as the tributary is wide, and free (R8, R9, R10). -/
theorem PositionsPass.sound {s : State} {kind : ChangeKind} {t : TribId} {c : CarrierId} {own : Option TribId}
    {pick scatter : Bool} {grains : List Byte} {ps : List Position} (h : PositionsPass s kind t c own pick scatter grains ps)
    (hw : 1 ≤ (s.trib t).width) (hw' : (s.trib t).width ≤ 60) :
    ps.Nodup ∧ ps.length = (s.trib t).width ∧ ∀ p ∈ ps, isFree own (s.carrier c).map[p] = true := by
  obtain ⟨found, free, -⟩ := h
  cases pick with
  | true => exact pick?_sound hw (hw'.trans (by decide)) found
  | false =>
    obtain ⟨hn, hlen⟩ := listedPositions?_sound found
    exact ⟨hn, hlen, free rfl⟩

/-- An admitted map change finds positions that MapSound asks for (R8, R9). -/
theorem Admission.positions {s : State} (h : s.TributariesSound) {kind : ChangeKind} {t : TribId} {c : CarrierId}
    {ps : List Position} (ha : Admission s kind t c ps) (hk : kind ≠ .unplace) :
    ps.Nodup ∧ ps.length = (s.trib t).width ∧
      ∀ p ∈ ps, ∀ e, (s.carrier c).map[p] = some e → kind = .regroom ∧ e.trib = t := by
  have usable : (s.trib t).Usable → 1 ≤ (s.trib t).width ∧ (s.trib t).width ≤ 60 := fun hu => by
    obtain ⟨hw, hw', -⟩ := (h.records t).used hu
    exact ⟨hw, hw'⟩
  cases ha with
  | place _ _ _ _ _ _ _ hu _ _ hpass =>
    obtain ⟨hn, hlen, hfree⟩ := hpass.sound (usable hu).1 (usable hu).2
    refine ⟨hn, hlen, fun p hp e he => ?_⟩
    have := hfree p hp
    rw [he] at this
    simp [isFree] at this
  | regroom _ _ _ _ _ _ hplaced hpass =>
    have hu : (s.trib t).Usable := .inr ((h.records t).placed_of_placementIn hplaced)
    obtain ⟨hn, hlen, hfree⟩ := hpass.sound (usable hu).1 (usable hu).2
    refine ⟨hn, hlen, fun p hp e he => ⟨rfl, ?_⟩⟩
    have := hfree p hp
    rw [he, isFree_iff] at this
    exact (Option.some.inj this).symm
  | unplace => exact absurd rfl hk

/-! ## Maps through the events -/

/-- Maps, placements' carriers and widths that stay keep the agreement. -/
theorem State.MapSound.follow {s t : State} (h : s.MapSound) (htrib : ∀ u, (s.trib u).SamePlaces (t.trib u))
    (hmap : ∀ c, (t.carrier c).map = (s.carrier c).map) (hchange : ∀ ch, t.change = some ch → s.change = some ch) :
    t.MapSound := by
  have hplaced : ∀ u c, (t.trib u).placementIn c ≠ none ↔ (s.trib u).placementIn c ≠ none := fun u c =>
    not_congr (Tributary.placementIn_congr (htrib u).carriers c)
  constructor
  · intro c i e he
    rw [hmap] at he
    rw [hplaced, (htrib _).width]
    exact h.entries c i e he
  · intro c i j e
    rw [hmap]
    exact h.once c i j e
  · intro u c hu slot hs
    rw [hmap]
    rw [(htrib u).width] at hs
    exact h.owned u c ((hplaced u c).1 hu) slot hs
  · intro ch hch hk
    rw [hmap, (htrib _).width]
    exact h.positions ch (hchange ch hch) hk

theorem State.MapSound.congr {s t : State} (h : s.MapSound) (htrib : t.tributaries = s.tributaries)
    (hcarriers : t.carriers = s.carriers) (hchange : t.change = s.change) : t.MapSound :=
  h.follow (fun u => .of_eq (by unfold State.trib; rw [htrib])) (fun c => by unfold State.carrier; rw [hcarriers])
    fun ch => by rw [hchange]; exact id

theorem Reported.mapSound {s t : State} (h : Reported s t) (hs : s.MapSound) : t.MapSound :=
  hs.congr h.tributaries h.carriers h.change

/-- Records whose places stay, under blocks that keep the carriers and the change. -/
theorem KeepsControl.mapSound {s t : State} (h : KeepsControl s t) (hs : s.MapSound)
    (htrib : ∀ u, (s.trib u).SamePlaces (t.trib u)) : t.MapSound :=
  hs.follow htrib (fun c => by rw [h.carrier]) fun ch => by rw [h.change]; exact id

/-- Of a tributary without placements no map holds an entry. -/
theorem State.MapSound.ne_of_unplaced {s : State} (h : s.MapSound) {t : TribId} (ht : (s.trib t).placements = [])
    {c : CarrierId} {i : Position} {e : MapEntry} (he : (s.carrier c).map[i] = some e) : e.trib ≠ t := by
  rintro rfl
  obtain ⟨hplaced, -⟩ := h.entries c i e he
  exact hplaced (Tributary.placementIn_eq_none.2 (by rw [ht]; nofun))

/-- The record of a tributary that has no placements may change as it likes while it takes none. -/
theorem State.MapSound.setTrib_unplaced {s : State} (h : s.MapSound) (hc : s.change = none) {t : TribId} {r : Tributary}
    (ht : (s.trib t).placements = []) (hr : r.placements = []) : (s.setTrib t r).MapSound := by
  constructor
  · intro c i e he
    rw [State.setTrib_carrier] at he
    rw [State.trib_setTrib_ne _ _ _ _ (h.ne_of_unplaced ht he)]
    exact h.entries c i e he
  · exact h.once
  · intro u c hu
    by_cases hut : u = t
    · subst hut
      rw [State.trib_setTrib_self] at hu
      exact absurd (Tributary.placementIn_eq_none.2 (by rw [hr]; nofun)) hu
    · rw [State.trib_setTrib_ne _ _ _ _ hut] at hu ⊢
      exact h.owned u c hu
  · intro ch hch
    rw [State.setTrib_change, hc] at hch
    cases hch

theorem State.MapSound.setTrib_samePlaces {s : State} (h : s.MapSound) {t : TribId} {r : Tributary}
    (hr : (s.trib t).SamePlaces r) : (s.setTrib t r).MapSound := by
  refine h.follow (fun u => ?_) (fun _ => rfl) fun _ => id
  by_cases hut : u = t
  · subst hut; rw [State.trib_setTrib_self]; exact hr
  · rw [State.trib_setTrib_ne _ _ _ _ hut]; exact .refl _

theorem State.setCarrier_map {s : State} {c : CarrierId} {r : Carrier} (hr : r.map = (s.carrier c).map) (d : CarrierId) :
    ((s.setCarrier c r).carrier d).map = (s.carrier d).map := by
  by_cases hd : d = c
  · subst hd; rw [State.carrier_setCarrier_self]; exact hr
  · rw [State.carrier_setCarrier_ne _ _ _ _ hd]

theorem State.MapSound.setCarrier {s : State} (h : s.MapSound) {c : CarrierId} {r : Carrier}
    (hr : r.map = (s.carrier c).map) : (s.setCarrier c r).MapSound :=
  h.follow (fun _ => .refl _) (State.setCarrier_map hr) fun _ => id

theorem Carrier.turnedOn_map (r : Carrier) (limit : Nat) : (r.turnedOn limit).map = r.map := by
  unfold Carrier.turnedOn
  split <;> rfl

theorem State.emptyTables_mapSound {s : State} (hc : s.change = none) : s.emptyTables.MapSound where
  entries c i e he := by
    rw [State.emptyTables_carrier] at he
    simp [Carrier.emptied] at he
  once c i j e he := by
    rw [State.emptyTables_carrier] at he
    simp [Carrier.emptied] at he
  owned u c hu := by
    rw [State.emptyTables_trib] at hu
    exact absurd rfl hu
  positions ch hch := by
    rw [show s.emptyTables.change = none from hc] at hch; cases hch

theorem CommandWork.mapSound {s w : State} (hw : CommandWork s w) (ht : s.TributariesSound) (h : s.MapSound)
    (hc : s.change = none) : w.MapSound := by
  have unplaced : ∀ {t : TribId}, (s.trib t).state ≠ .active → (s.trib t).state ≠ .silent → (s.trib t).placements = [] :=
    fun {t} => (ht.records t).placements_eq_nil
  cases hw with
  | attach t width lag fill _ _ hfree =>
    have hnil := unplaced (t := t) (by rw [hfree]; decide) (by rw [hfree]; decide)
    exact h.setTrib_unplaced hc hnil hnil
  | detach t hidle _ =>
    have hnil := unplaced (t := t) (by rw [hidle]; decide) (by rw [hidle]; decide)
    exact (raise_reported _ _).mapSound (h.setTrib_unplaced hc hnil hnil)
  | retire t hidle _ =>
    have hnil := unplaced (t := t) (by rw [hidle]; decide) (by rw [hidle]; decide)
    exact h.setTrib_unplaced hc hnil hnil
  | clearCounts t => exact h.setTrib_samePlaces ⟨rfl, rfl⟩
  | carrierOn c limit => exact h.setCarrier (Carrier.turnedOn_map _ _)
  | carrierOff c _ => exact h.setCarrier rfl
  | mark v => exact (raise_reported _ _).mapSound h
  | clearTables => exact State.emptyTables_mapSound hc
  | _ => exact h.congr rfl rfl rfl

theorem State.MapSound.completeWith {s : State} (h : s.MapSound) (g : Option (List Position)) (code : Completion)
    (data : List Byte) : (s.completeWith g code data).MapSound :=
  h.congr (State.completeWith_tributaries ..) (State.completeWith_carriers ..) (s.completeWith_change g code data)

theorem State.MapSound.admitChange {s : State} (h : s.MapSound) (ht : s.TributariesSound) {kind : ChangeKind} {t : TribId}
    {c : CarrierId} {ps : List Position} (ha : Admission s kind t c ps) : (s.admitChange kind t c ps).MapSound := by
  have hmap : ∀ d, ((s.admitChange kind t c ps).carrier d).map = (s.carrier d).map := fun d =>
    (State.setCarrier_map (s := s) (c := c) (r := { s.carrier c with pendingFlag := true }) rfl d :)
  constructor
  · intro d i e
    rw [hmap]
    exact h.entries d i e
  · intro d i j e
    rw [hmap]
    exact h.once d i j e
  · intro u d
    rw [hmap]
    exact h.owned u d
  · intro ch hch hk
    cases hch
    rw [hmap]
    exact ha.positions ht hk

theorem State.MapSound.run {s : State} (hs : s.ProcessorSound) (ht : s.TributariesSound) (h : s.MapSound)
    (hi : s.response.fetch.issued = true) (r : Record) (c : Command) : ((s.beginCommand r).run c).MapSound := by
  have hchange := hs.change_none_of_issued hi
  have hbegun : (s.beginCommand r).MapSound := h.congr rfl rfl rfl
  have htrib : (s.beginCommand r).TributariesSound := ht.congr rfl rfl rfl
  obtain ⟨w, code, data, hw, hrun⟩ | ⟨kind, t, d, ps, hadmit, hrun⟩ := (s.beginCommand r).run_runsTo c
  · rw [hrun]; exact (hw.mapSound htrib hbegun hchange).completeWith none code data
  · rw [hrun]; exact hbegun.admitChange htrib hadmit

/-! ## The application of the pending change -/

/-- The map of its carrier offers the pending change what it needs (R8, R16). -/
theorem State.MapSound.changeFits {s : State} (h : s.MapSound) (ht : s.TributariesSound) {ch : PendingChange}
    (hc : s.change = some ch) : ChangeFits ch.kind ch.trib ch.positions (s.carrier ch.carrier).map where
  nodup hk := (h.positions ch hc hk).1
  free hk p hp e he := ((h.positions ch hc hk).2.2 p hp e he).2
  absent hk i e he := by
    intro heq
    obtain ⟨hplaced, -⟩ := h.entries ch.carrier i e he
    rw [heq] at hplaced
    exact hplaced ((ht.awaits hc).placing hk).2.2

theorem State.applyChange_map (s : State) (ch : PendingChange) (a : ApplyAt) (d : CarrierId) :
    ((s.applyChange ch a).carrier d).map =
      if d = ch.carrier then changedMap ch.kind ch.trib ch.positions (s.carrier ch.carrier).map else (s.carrier d).map := by
  rw [State.applyChange_carrier]
  split
  · cases a <;> rfl
  · rfl

theorem State.MapSound.applyChange {s : State} (h : s.MapSound) (ht : s.TributariesSound) {ch : PendingChange}
    (hc : s.change = some ch) (a : ApplyAt) : (s.applyChange ch a).MapSound := by
  have hfits := h.changeFits ht hc
  have hmap := s.applyChange_map ch a
  have htrib := s.applyChange_trib ch a
  have hplaced := Tributary.applied_placementIn (ht.awaits hc) a
  have hwidth : ∀ u, ((s.applyChange ch a).trib u).width = (s.trib u).width := fun u => by
    rw [htrib]
    split
    · next hu => subst hu; exact (Tributary.applied_sameOwn ..).width
    · rfl
  have hlen : ch.kind ≠ .unplace → ch.positions.length = (s.trib ch.trib).width := fun hk => (h.positions ch hc hk).2.1
  constructor
  · intro c i e he
    rw [hmap] at he
    rw [hwidth, htrib]
    split at he
    · next hd =>
      subst hd
      rcases hfits.changedMap_eq_some.1 he with ⟨hk, k, hget, rfl⟩ | ⟨hold, hne⟩
      · rw [if_pos rfl, hplaced, if_pos rfl, ← hlen hk]
        exact ⟨hk, (List.getElem?_eq_some_iff.1 hget).1⟩
      · rw [if_neg hne]
        exact h.entries _ i e hold
    · next hd =>
      obtain ⟨hold, hslot⟩ := h.entries c i e he
      refine ⟨?_, hslot⟩
      split
      · next hu => rw [hplaced, if_neg hd, ← hu]; exact hold
      · exact hold
  · intro c i j e hi hj
    rw [hmap] at hi hj
    split at hi
    · next hd =>
      rw [if_pos hd] at hj
      rcases hfits.changedMap_eq_some.1 hi with ⟨-, k, hget, rfl⟩ | ⟨hold, hne⟩ <;>
        rcases hfits.changedMap_eq_some.1 hj with ⟨-, k', hget', he'⟩ | ⟨hold', hne'⟩
      · cases he'
        exact Option.some.inj (hget.symm.trans hget')
      · exact absurd rfl hne'
      · exact absurd (by rw [he']) hne
      · exact h.once _ i j e hold hold'
    · next hd =>
      rw [if_neg hd] at hj
      exact h.once c i j e hi hj
  · intro u c hu slot hslot
    rw [hwidth] at hslot
    rw [htrib] at hu
    rw [hmap]
    split
    · next hd =>
      subst hd
      split at hu
      · next hut =>
        subst hut
        rw [hplaced, if_pos rfl] at hu
        rw [← hlen hu] at hslot
        exact ⟨ch.positions[slot], hfits.changedMap_eq_some.2 (.inl ⟨hu, slot, List.getElem?_eq_getElem hslot, rfl⟩)⟩
      · next hut =>
        obtain ⟨i, hi⟩ := h.owned u _ hu slot hslot
        exact ⟨i, hfits.changedMap_eq_some.2 (.inr ⟨hi, hut⟩)⟩
    · next hd =>
      refine h.owned u c ?_ slot hslot
      split at hu
      · next hut => rw [hplaced, if_neg hd, ← hut] at hu; exact hu
      · exact hu
  · intro ch' hch'
    rw [State.applyChange_change] at hch'
    cases hch'

/-- Step 4 and step 5 write no map and move no placement (R62). -/
theorem EvaluationKeeps.map {s t : State} (h : EvaluationKeeps s t) (d : CarrierId) : (t.carrier d).map = (s.carrier d).map := by
  rw [h.carrier d]

theorem State.MapSound.finishCycle {s : State} (h : s.MapSound) (c : CarrierId) (s0 : State) (q : Option PendingChange) :
    ((s.evaluateAll c).recomputeIndications c s0 s q).MapSound := by
  have hkeeps := s.evaluateAll_keeps c
  have hevaluated : (s.evaluateAll c).MapSound :=
    h.follow (fun u => ⟨(s.evaluateAll_sameOwn c u).width, hkeeps.carriers u⟩) hkeeps.map
      fun ch hch => hkeeps.change ▸ hch
  have hrest := State.recomputeIndications_keeps (s.evaluateAll c) c s0 s q
  exact hevaluated.follow (fun u => .of_eq (State.recomputeIndications_trib ..)) hrest.map fun ch hch => hrest.change ▸ hch

theorem State.MapSound.cycleStart {s : State} (ht : s.TributariesSound) (h : s.MapSound) (c : CarrierId) (p : BitVec 3) :
    (s.cycleStart c p).MapSound := by
  obtain ⟨hchange, htranslation, -, -, -, -, -, -, htrib, hself, hother⟩ := s.countCycle_takePage_spec c p
  have htributaries : ((s.takePage c p).countCycle c).TributariesSound := ht.congr htrib (by rw [htranslation]) hchange
  have hcounted : ((s.takePage c p).countCycle c).MapSound := by
    refine h.follow (fun u => .of_eq (by unfold State.trib; rw [htrib])) (fun d => ?_) fun ch hch => hchange ▸ hch
    by_cases hd : d = c
    · subst hd; rw [hself]
    · rw [hother d hd]
  unfold State.cycleStart
  dsimp only
  split
  · next ch hfor => exact (hcounted.applyChange htributaries (State.changeFor_eq_some hfor).1 _).finishCycle ..
  · exact hcounted.finishCycle ..

/-! ## Blocks that write neither maps nor placements -/

theorem State.handPost_carriers (s : State) (n : BitVec 16) : (s.handPost n).carriers = s.carriers := by
  unfold State.handPost
  split
  · dsimp only
    split <;> rfl
  · exact (raise_reported s _).carriers

theorem State.noteWrite_carriers (s : State) (w : UWrite) : (s.noteWrite w).carriers = s.carriers := by
  unfold State.noteWrite
  split
  · exact (s.trackWrite_keepsControl w).carriers
  · split
    · exact s.handPost_carriers _
    · split
      · exact (s.handTake_keepsControl _).carriers
      · rfl

theorem State.noteWrite_carrier (s : State) (w : UWrite) (c : CarrierId) : (s.noteWrite w).carrier c = s.carrier c := by
  unfold State.carrier; rw [State.noteWrite_carriers]

theorem State.accountParent_trib (s : State) (i : Fin 32) (p : Parent) (o : Option Occurrence) (u : TribId) :
    (s.accountParent i p o).trib u = s.trib u := by
  unfold State.trib; rw [State.accountParent_tributaries]

theorem State.answer_samePlaces (s : State) (k : Fin 64) (result : MemResult) (words : List Word) (u : TribId) :
    (s.trib u).SamePlaces ((s.answer k result words).trib u) :=
  (Tributary.SamePlaces.of_eq (State.accountParent_trib ..)).trans ((State.release_releases _ k).samePlaces u)

theorem State.issuePiece_samePlaces (s : State) (i : Fin 32) (c : CarrierId) (p : Piece) (u : TribId) :
    (s.trib u).SamePlaces ((s.issuePiece i c p).trib u) := by
  have hallocate : ∀ first length t d a o, (s.allocate i first length t d a o).trib u = s.trib u := by
    intros
    unfold State.allocate
    split <;> rfl
  unfold State.issuePiece
  dsimp only
  rw [(report_reported _ _).trib]
  by_cases hu : u = p.trib
  · subst hu
    rw [State.trib_setTrib_self, hallocate]
    exact ⟨rfl, rfl⟩
  · rw [State.trib_setTrib_ne _ _ _ _ hu, hallocate]
    exact .refl _

theorem foldl_issuePiece_samePlaces (i : Fin 32) (c : CarrierId) (ps : List Piece) (s : State) (u : TribId) :
    (s.trib u).SamePlaces ((ps.foldl (fun s p => s.issuePiece i c p) s).trib u) := by
  induction ps generalizing s with
  | nil => exact .refl _
  | cons p ps ih => exact (s.issuePiece_samePlaces i c p u).trans (ih _)

theorem State.acceptRead_samePlaces (s : State) (i : Fin 32) (r : URead) (u : TribId) :
    (s.trib u).SamePlaces ((s.acceptRead i r).trib u) := by
  unfold State.acceptRead
  split
  · refine .trans ?_ (foldl_issuePiece_samePlaces i _ _ _ u)
    refine .of_eq ?_
    rw [(foldl_report_reported _ _).trib]
    rfl
  · exact .refl _
  · exact .of_eq (((report_reported _ _).trans (report_reported _ _)).trib u)
  · exact .of_eq ((raise_reported _ _).trib u)
  · refine .of_eq (((report_reported _ _).trib u).trans ?_)
    unfold State.allocate
    split <;> rfl

theorem State.reset_carrier (c : CarrierId) : State.reset.carrier c = .reset := by
  unfold State.carrier State.reset
  simp

theorem State.reset_mapSound : State.reset.MapSound where
  entries c i e he := by
    rw [State.reset_carrier] at he
    simp [Carrier.reset] at he
  once c i j e he := by
    rw [State.reset_carrier] at he
    simp [Carrier.reset] at he
  owned u c hu := by
    rw [State.reset_trib] at hu
    exact absurd rfl hu
  positions := nofun

/-- The agreement of maps and placements, beside the soundness of the processor and the tributaries, survives everything that
can happen. -/
theorem maps_stepClosed : StepClosed fun s => (s.ProcessorSound ∧ s.TributariesSound) ∧ s.MapSound where
  channel s c h := ⟨tributaries_stepClosed.channel s c h.1, h.2.congr rfl rfl rfl⟩
  pending s p h := ⟨tributaries_stepClosed.pending s p h.1, h.2.congr rfl rfl rfl⟩
  stray s w h := ⟨tributaries_stepClosed.stray s w h.1, (raise_reported s _).mapSound h.2⟩
  forward s w h hr hf := ⟨tributaries_stepClosed.forward s w h.1 hr hf, by
    have hforward : (s.forwardWrite w).MapSound := Reported.mapSound (report_reported (s.enqueue _) _) (h.2.congr rfl rfl rfl)
    refine hforward.follow (fun u => (State.noteWrite_follows _ w u).toSamePlaces) (fun d => ?_)
      fun ch hch => State.noteWrite_change _ w ▸ hch
    rw [State.noteWrite_carrier]⟩
  hold s r b h := ⟨tributaries_stepClosed.hold s r b h.1, by
    unfold State.holdRead
    split
    · exact h.2
    · exact (report_reported s _).mapSound h.2⟩
  cycle s c p h hon := ⟨tributaries_stepClosed.cycle s c p h.1 hon, .cycleStart h.1.2 h.2 c p⟩
  accept s i r h hi hn := ⟨tributaries_stepClosed.accept s i r h.1 hi hn,
    (s.acceptRead_keepsControl i r).mapSound h.2 (s.acceptRead_samePlaces i r)⟩
  stale s h := ⟨tributaries_stepClosed.stale s h.1, (report_reported s _).mapSound h.2⟩
  run s r c h hi := ⟨tributaries_stepClosed.run s r c h.1 hi, .run h.1.1 h.1.2 h.2 hi r c⟩
  fetchFails s h hi := ⟨tributaries_stepClosed.fetchFails s h.1 hi,
    State.MapSound.completeWith (s := s.freeFetch) (h.2.congr rfl rfl rfl) none _ _⟩
  answer s k result words h hk := ⟨tributaries_stepClosed.answer s k result words h.1 hk,
    (s.answer_keepsControl k result words).mapSound h.2 (s.answer_samePlaces k result words)⟩
  late s k h hk := ⟨tributaries_stepClosed.late s k h.1 hk,
    (s.lateArrival_keepsControl k).mapSound h.2 fun u =>
      .trans (.of_eq ((report_reported s _).trib u)) ((State.release_releases _ k).samePlaces u)⟩
  depart s i rest h hr := ⟨tributaries_stepClosed.depart s i rest h.1 hr,
    (s.depart_keepsControl i).mapSound h.2 fun u => .of_eq (by
      unfold State.depart
      dsimp only
      rw [State.noteFreed_eq]
      rfl)⟩
  apply s ch h hc := ⟨tributaries_stepClosed.apply s ch h.1 hc, h.2.applyChange h.1.2 hc _⟩
  expire s k h hk := ⟨tributaries_stepClosed.expire s k h.1 hk,
    (s.expireSub_keepsControl k).mapSound h.2 fun u => .of_eq (State.accountParent_trib ..)⟩
  abandon s k h hk := ⟨tributaries_stepClosed.abandon s k h.1 hk,
    (s.abandonSub_keepsControl k).mapSound h.2 fun u =>
      .trans (.of_eq ((raise_reported s _).trib u)) ((State.release_releases _ k).samePlaces u)⟩
  tick s h := ⟨tributaries_stepClosed.tick s h.1, h.2.congr rfl rfl rfl⟩
  reset s h := ⟨tributaries_stepClosed.reset s h.1, State.reset_mapSound.congr rfl rfl rfl⟩
  taken s q rest h hq := ⟨tributaries_stepClosed.taken s q rest h.1 hq, h.2.congr rfl rfl rfl⟩

/-- Settles O57: the maps and the placement records agree after every event, hence after every step. -/
theorem everyStepKeepsMap : Obligations.EveryStepKeepsMap := fun s t hp ht h hstep =>
  (maps_stepClosed.step s t ⟨⟨hp, ht⟩, h⟩ hstep).2

end Sys2Proof.Machine
end

section
/-! SUPPORT. The carrier records (R1, R6, R16, R65): what evaluations, applications and commands keep of the agreement of a
record with its map and with the pending change, and the statement that every step keeps it. -/

namespace Sys2Proof.Machine

/-! ## One record -/

/-- The indication bytes agree with the map (R65). -/
def Carrier.BytesAgree (r : Carrier) : Prop := ∀ i : Fin 240, r.indications[i] = .unassigned ↔ r.map[i] = none

/-- The record agrees with its map but for the indication bytes (R1, R6, R7). -/
structure Carrier.Tallied (r : Carrier) : Prop where
  cost : r.cost = readCost r.map
  mapped : r.mapped = mappedCount r.map
  costLimit : 8 ≤ r.costLimit ∧ r.costLimit ≤ 240
  off : r.on = false → r.page = none ∧ ∀ i : Fin 240, r.map[i] = none

theorem Carrier.sound_iff {r : Carrier} : r.Sound ↔ r.Tallied ∧ r.BytesAgree :=
  ⟨fun ⟨cost, mapped, costLimit, off, bytes⟩ => ⟨⟨cost, mapped, costLimit, off⟩, bytes⟩,
    fun ⟨⟨cost, mapped, costLimit, off⟩, bytes⟩ => ⟨cost, mapped, costLimit, off, bytes⟩⟩

theorem Carrier.Tallied.withIndications {r : Carrier} (h : r.Tallied) (v : Vector Indication 240) :
    Carrier.Tallied { r with indications := v } := ⟨h.cost, h.mapped, h.costLimit, h.off⟩

/-! ## Bytes that evaluations write -/

theorem State.reportEvaluation_carrier (s : State) (t : TribId) (c : CarrierId) (tr : Tributary) (e : Evaluation)
    (d : CarrierId) :
    (s.reportEvaluation t c tr e).carrier d =
      if e.outcome = .silenced then alarmPositions t (s.carrier d) else s.carrier d := by
  unfold State.reportEvaluation
  cases e.slip <;> cases e.moved <;> simp only [] <;> split <;> simp

theorem alarmPositions_getElem (t : TribId) (r : Carrier) (i : Fin 240) :
    (alarmPositions t r).indications[i] = if namesTrib t r.map[i] then .alarm else r.indications[i] := by
  unfold alarmPositions
  exact tabulate_get ..

theorem Carrier.BytesAgree.alarmPositions {r : Carrier} (h : r.BytesAgree) (t : TribId) : (alarmPositions t r).BytesAgree := by
  intro i
  rw [alarmPositions_getElem]
  change _ ↔ r.map[i] = none
  split
  · next hn =>
    obtain ⟨e, he, -⟩ := namesTrib_eq_true.1 hn
    rw [he]
    exact ⟨nofun, nofun⟩
  · exact h i

theorem State.evaluate_carrier_of_some {s : State} {c : CarrierId} {t : TribId} {p : Placement}
    (h : (s.trib t).placementIn c = some p) (d : CarrierId) :
    (s.evaluate c t).carrier d =
      if (evaluation s.processor.limits (s.trib t) p).outcome = .silenced then Machine.alarmPositions t (s.carrier d)
      else s.carrier d := by
  rw [State.evaluate_of_some h, State.reportEvaluation_carrier]
  rfl

theorem State.evaluateAll_bytesAgree (s : State) (c : CarrierId) {d : CarrierId} (h : (s.carrier d).BytesAgree) :
    ((s.evaluateAll c).carrier d).BytesAgree := by
  have fold : ∀ (l : List TribId) (w : State), (w.carrier d).BytesAgree →
      ((l.foldl (fun s t => s.evaluate c t) w).carrier d).BytesAgree := by
    intro l
    induction l with
    | nil => exact fun _ hw => hw
    | cons t l ih =>
      intro w hw
      refine ih _ ?_
      change ((w.evaluate c t).carrier d).BytesAgree
      cases hp : (w.trib t).placementIn c with
      | none => rw [State.evaluate_of_none hp]; exact hw
      | some p =>
        rw [State.evaluate_carrier_of_some hp]
        split
        · exact hw.alarmPositions t
        · exact hw
  refine fold (s.evaluationOrder c) { s with draws := drawn (s.raisingIn c).length s.draws } ?_
  have hdraws : ({ s with draws := drawn (s.raisingIn c).length s.draws } : State).carrier d = s.carrier d := by
    unfold State.carrier; rfl
  rw [hdraws]
  exact h

theorem State.evaluateAll_tallied (s : State) (c : CarrierId) {d : CarrierId} (h : (s.carrier d).Tallied) :
    ((s.evaluateAll c).carrier d).Tallied := by
  rw [(s.evaluateAll_keeps c).carrier d]
  exact h.withIndications _

/-- Step 5 writes UNASSIGNED at the unassigned positions and at no other (R65, R66). -/
theorem stepFiveIndication_ne_unassigned (alarm : Bool) (outcome : Option Outcome) (change : Option PendingChange)
    (before after : Option MapEntry) :
    stepFiveIndication alarm outcome (appliedIndication change before after) ≠ .unassigned := by
  have happlied : (appliedIndication change before after).getD .normal ≠ .unassigned := by
    unfold appliedIndication
    split
    · split
      · split
        · decide
        · split <;> decide
        · decide
      · decide
    · decide
  unfold stepFiveIndication
  split
  · decide
  · split
    · decide
    · decide
    · decide
    · exact happlied

theorem State.recomputeIndications_carrier (s : State) (c : CarrierId) (s0 s4 : State) (q : Option PendingChange)
    (d : CarrierId) (hd : d ≠ c) : (s.recomputeIndications c s0 s4 q).carrier d = s.carrier d :=
  State.carrier_setCarrier_ne _ _ _ _ hd

theorem State.recomputeIndications_getElem (s : State) (c : CarrierId) (s0 s4 : State) (q : Option PendingChange)
    (i : Fin 240) :
    ((s.recomputeIndications c s0 s4 q).carrier c).indications[i] =
      match (s.carrier c).map[i] with
      | none => .unassigned
      | some e =>
        stepFiveIndication ((s.trib e.trib).alarmIn c) ((s4.evaluationOf c e.trib).map (·.outcome))
          (appliedIndication q (s0.carrier c).map[i] (s.carrier c).map[i]) := by
  unfold State.recomputeIndications
  dsimp only
  rw [State.carrier_setCarrier_self]
  exact tabulate_get ..

theorem State.recomputeIndications_bytesAgree (s : State) (c : CarrierId) (s0 s4 : State) (q : Option PendingChange) :
    ((s.recomputeIndications c s0 s4 q).carrier c).BytesAgree := by
  intro i
  have hmap : ((s.recomputeIndications c s0 s4 q).carrier c).map = (s.carrier c).map :=
    (State.recomputeIndications_keeps s c s0 s4 q).map c
  rw [State.recomputeIndications_getElem, hmap]
  split
  · next hnone => exact ⟨fun _ => hnone, fun _ => rfl⟩
  · next e he =>
    rw [he]
    exact ⟨fun h => absurd h (stepFiveIndication_ne_unassigned _ _ _ _ _), nofun⟩

/-! ## Bytes that the deadline writes -/

theorem heldOutcome_ne_unassigned {t : TribId} {r : Carrier} {i : Indication} (h : heldOutcome t r = some i) :
    i ≠ .unassigned := by
  unfold heldOutcome at h
  obtain ⟨ei, hfind, rfl⟩ := Option.map_eq_some_iff.1 h
  have := List.find?_some hfind
  rintro hu
  rw [hu] at this
  simp at this

theorem expiryIndication_ne_unassigned (kind : ChangeKind) (alarm : Bool) (t : TribId) (r : Carrier) :
    expiryIndication kind alarm (heldOutcome t r) ≠ .unassigned := by
  unfold expiryIndication
  split
  · decide
  · split
    · next hheld => exact heldOutcome_ne_unassigned hheld
    · decide
    · decide

theorem expiryIndications_getElem (ch : PendingChange) (tr : Tributary) (old : Carrier) (m : CarrierMap) (i : Fin 240) :
    (expiryIndications ch tr old m)[i] =
      if old.map[i] = m[i] then old.indications[i]
      else if m[i].isSome then expiryIndication ch.kind (tr.alarmIn ch.carrier) (heldOutcome ch.trib old)
      else .unassigned := by
  unfold expiryIndications
  exact tabulate_get ..

theorem Carrier.BytesAgree.expiry {old : Carrier} (h : old.BytesAgree) (ch : PendingChange) (tr : Tributary) (m : CarrierMap) :
    Carrier.BytesAgree { old.applied m with indications := expiryIndications ch tr old m } := by
  intro i
  change (expiryIndications ch tr old m)[i] = _ ↔ m[i] = none
  rw [expiryIndications_getElem]
  split
  · next heq => rw [← heq]; exact h i
  · split
    · next hsome =>
      rw [Option.isSome_iff_ne_none] at hsome
      exact ⟨fun hu => absurd hu (expiryIndication_ne_unassigned _ _ _ _), fun hn => absurd hn hsome⟩
    · next hnone => exact ⟨fun _ => by simpa using hnone, fun _ => rfl⟩

theorem Carrier.Tallied.applied {r : Carrier} (h : r.Tallied) (hon : r.on = true) (m : CarrierMap) : (r.applied m).Tallied :=
  ⟨rfl, rfl, h.costLimit, fun hoff => by rw [show (r.applied m).on = true from hon] at hoff; cases hoff⟩

/-! ## The carriers of a state -/

theorem State.CarriersSound.congr {s t : State} (h : s.CarriersSound) (hcarriers : t.carriers = s.carriers)
    (hchange : t.change = s.change) : t.CarriersSound := by
  have hsame : ∀ c, t.carrier c = s.carrier c := fun c => by unfold State.carrier; rw [hcarriers]
  obtain ⟨records, pending, target⟩ := h
  constructor <;> simpa only [hsame, hchange]

theorem KeepsControl.carriersSound {s t : State} (h : KeepsControl s t) (hs : s.CarriersSound) : t.CarriersSound :=
  hs.congr h.carriers h.change

theorem Reported.carriersSound {s t : State} (h : Reported s t) (hs : s.CarriersSound) : t.CarriersSound :=
  h.keepsControl.carriersSound hs

/-- With no pending change every pending flag is clear. -/
theorem State.CarriersSound.flag_clear {s : State} (h : s.CarriersSound) (hc : s.change = none) (c : CarrierId) :
    (s.carrier c).pendingFlag = false := by
  rw [Bool.eq_false_iff]
  intro hflag
  obtain ⟨ch, hch, -⟩ := (h.pending c).1 hflag
  rw [hc] at hch
  cases hch

theorem State.carriersSound_of_no_change {s : State} (records : ∀ c, (s.carrier c).Sound)
    (flags : ∀ c, (s.carrier c).pendingFlag = false) (hc : s.change = none) : s.CarriersSound where
  records := records
  pending c := by
    rw [flags c, hc]
    exact ⟨nofun, fun ⟨ch, hch, _⟩ => by cases hch⟩
  target ch hch := by rw [hc] at hch; cases hch

theorem State.CarriersSound.setCarrier {s : State} (h : s.CarriersSound) (hc : s.change = none) {c : CarrierId} {r : Carrier}
    (hr : r.Sound) (hflag : r.pendingFlag = (s.carrier c).pendingFlag) : (s.setCarrier c r).CarriersSound := by
  refine State.carriersSound_of_no_change (fun d => ?_) (fun d => ?_) hc
  · by_cases hd : d = c
    · subst hd; rw [State.carrier_setCarrier_self]; exact hr
    · rw [State.carrier_setCarrier_ne _ _ _ _ hd]; exact h.records d
  · by_cases hd : d = c
    · subst hd; rw [State.carrier_setCarrier_self, hflag]; exact h.flag_clear hc d
    · rw [State.carrier_setCarrier_ne _ _ _ _ hd]; exact h.flag_clear hc d

/-! ## Commands -/

theorem pieceCountFrom_of_none {o : Option MapEntry} {l : List (Option MapEntry)} (h : ∀ e ∈ l, e = none) :
    pieceCountFrom o l = 0 := by
  induction l generalizing o with
  | nil => cases o <;> rfl
  | cons x l ih =>
    obtain rfl := h x (List.mem_cons_self ..)
    have hrest := ih (o := none) fun e he => h e (List.mem_cons_of_mem _ he)
    cases o <;> exact hrest

/-- An empty map costs nothing (R6). -/
theorem readCost_of_empty {m : CarrierMap} (h : ∀ i : Fin 240, m[i] = none) : readCost m = 0 := by
  have hall : ∀ e ∈ m.toList, e = none := fun e he => by
    obtain ⟨i, hi, rfl⟩ := List.mem_iff_getElem.1 he
    rw [Vector.length_toList] at hi
    simpa using h ⟨i, hi⟩
  unfold readCost
  refine List.sum_eq_zero fun n hn => ?_
  obtain ⟨k, -, rfl⟩ := List.mem_map.1 hn
  exact pieceCountFrom_of_none fun e he => hall e (List.mem_of_mem_drop (List.mem_of_mem_take he))

theorem mappedCount_eq_zero {m : CarrierMap} : mappedCount m = 0 ↔ ∀ i : Fin 240, m[i] = none :=
  countTable_eq_zero.trans (forall_congr' fun i => by cases m[i] <;> simp)

theorem noIndications_getElem (i : Fin 240) : noIndications[i] = .unassigned := by
  simp [noIndications]

theorem Carrier.Sound.turnedOn {r : Carrier} (h : r.Sound) (limit : Nat) : (r.turnedOn limit).Sound := by
  have hlimit := clamp_range 8 240 limit (by decide)
  unfold Carrier.turnedOn
  split
  · exact ⟨h.cost, h.mapped, hlimit, h.off, h.bytes⟩
  · next hoff =>
    have hempty := (h.off (by simpa using hoff)).2
    exact ⟨h.cost, h.mapped, hlimit, nofun, fun i =>
      ⟨fun _ => hempty i, fun _ => noIndications_getElem i⟩⟩

theorem Carrier.turnedOn_pendingFlag (r : Carrier) (limit : Nat) : (r.turnedOn limit).pendingFlag = r.pendingFlag := by
  unfold Carrier.turnedOn
  split <;> rfl

theorem Carrier.Sound.turnedOff {r : Carrier} (h : r.Sound) (hm : r.mapped = 0) : r.turnedOff.Sound := by
  have hempty := mappedCount_eq_zero.1 (h.mapped.symm.trans hm)
  exact ⟨(readCost_of_empty hempty).symm, h.mapped, h.costLimit, fun _ => ⟨rfl, hempty⟩, fun i =>
    ⟨fun _ => hempty i, fun _ => noIndications_getElem i⟩⟩

/-- A carrier with an empty map, OFF and without indications. -/
theorem Carrier.sound_of_empty {r : Carrier} (hmap : ∀ i : Fin 240, r.map[i] = none) (hcost : r.cost = 0) (hmapped : r.mapped = 0)
    (hlimit : r.costLimit = 240) (hpage : r.page = none) (hbytes : ∀ i : Fin 240, r.indications[i] = .unassigned) :
    r.Sound where
  cost := hcost.trans (readCost_of_empty hmap).symm
  mapped := hmapped.trans (mappedCount_eq_zero.2 hmap).symm
  costLimit := by omega
  off _ := ⟨hpage, hmap⟩
  bytes i := ⟨fun _ => hmap i, fun _ => hbytes i⟩

theorem Carrier.emptied_sound (r : Carrier) : r.emptied.Sound :=
  Carrier.sound_of_empty (fun i => by simp [Carrier.emptied]) rfl rfl rfl rfl noIndications_getElem

theorem CommandWork.carriersSound {s w : State} (hw : CommandWork s w) (h : s.CarriersSound) (hc : s.change = none) :
    w.CarriersSound := by
  cases hw with
  | carrierOn c limit => exact h.setCarrier hc ((h.records c).turnedOn limit) (Carrier.turnedOn_pendingFlag ..)
  | carrierOff c hm => exact h.setCarrier hc ((h.records c).turnedOff hm) rfl
  | detach t _ _ => exact (raise_reported _ _).carriersSound (h.congr rfl rfl)
  | mark v => exact (raise_reported _ _).carriersSound h
  | clearTables =>
    refine State.carriersSound_of_no_change (fun c => ?_) (fun c => ?_) hc
    · rw [State.emptyTables_carrier]; exact Carrier.emptied_sound _
    · rw [State.emptyTables_carrier]; rfl
  | _ => exact h.congr rfl rfl

theorem State.CarriersSound.completeWith {s : State} (h : s.CarriersSound) (g : Option (List Position)) (code : Completion)
    (data : List Byte) : (s.completeWith g code data).CarriersSound :=
  h.congr (State.completeWith_carriers ..) (s.completeWith_change g code data)

/-- A carrier in which a tributary is placed is ON: it has a slot at a position, and an OFF carrier has none (R1, R31). -/
theorem State.CarriersSound.on_of_placed {s : State} (h : s.CarriersSound) (ht : s.TributariesSound) (hm : s.MapSound)
    {t : TribId} {c : CarrierId} (hp : (s.trib t).placementIn c ≠ none) : (s.carrier c).on = true := by
  obtain ⟨hw, -⟩ := (ht.records t).used (.inr ((ht.records t).placed_of_placementIn hp))
  obtain ⟨i, hi⟩ := hm.owned t c hp 0 hw
  cases hon : (s.carrier c).on with
  | true => rfl
  | false =>
    have := ((h.records c).off hon).2 i
    rw [hi] at this
    cases this

theorem State.CarriersSound.admitChange {s : State} (h : s.CarriersSound) (hc : s.change = none) (ht : s.TributariesSound)
    (hm : s.MapSound) {kind : ChangeKind} {t : TribId} {c : CarrierId} {ps : List Position} (ha : Admission s kind t c ps) :
    (s.admitChange kind t c ps).CarriersSound := by
  have hself : (s.admitChange kind t c ps).carrier c = { s.carrier c with pendingFlag := true } :=
    State.carrier_setCarrier_self s c _
  have hother : ∀ d, d ≠ c → (s.admitChange kind t c ps).carrier d = s.carrier d := fun d hd =>
    State.carrier_setCarrier_ne s c d _ hd
  have hon : (s.carrier c).on = true := by
    cases ha with
    | place _ _ _ _ _ _ hon => exact hon
    | regroom _ _ _ _ _ _ hp => exact h.on_of_placed ht hm hp
    | unplace _ _ hp => exact h.on_of_placed ht hm hp
  constructor
  · intro d
    by_cases hd : d = c
    · subst hd
      rw [hself]
      obtain ⟨cost, mapped, costLimit, off, bytes⟩ := h.records d
      exact ⟨cost, mapped, costLimit, off, bytes⟩
    · rw [hother d hd]; exact h.records d
  · intro d
    by_cases hd : d = c
    · subst hd
      rw [hself]
      exact ⟨fun _ => ⟨_, rfl, rfl⟩, fun _ => rfl⟩
    · rw [hother d hd, h.flag_clear hc d]
      refine ⟨nofun, ?_⟩
      rintro ⟨ch, hch, rfl⟩
      cases hch
      exact absurd rfl hd
  · rintro ch hch
    cases hch
    change ((s.admitChange kind t c ps).carrier c).on = true
    rw [hself]
    exact hon

theorem State.CarriersSound.run {s : State} (hs : s.ProcessorSound) (ht : s.TributariesSound) (hm : s.MapSound)
    (h : s.CarriersSound) (hi : s.response.fetch.issued = true) (r : Record) (c : Command) :
    ((s.beginCommand r).run c).CarriersSound := by
  have hchange := hs.change_none_of_issued hi
  have hbegun : (s.beginCommand r).CarriersSound := h.congr rfl rfl
  obtain ⟨w, code, data, hw, hrun⟩ | ⟨kind, t, d, ps, hadmit, hrun⟩ := (s.beginCommand r).run_runsTo c
  · rw [hrun]; exact (hw.carriersSound hbegun hchange).completeWith none code data
  · rw [hrun]
    exact hbegun.admitChange hchange (ht.congr rfl rfl rfl) (hm.congr rfl rfl rfl) hadmit

/-! ## Applications and cycle starts -/

theorem State.applyChange_pendingFlag {s : State} (h : s.CarriersSound) {ch : PendingChange} (hc : s.change = some ch)
    (a : ApplyAt) (d : CarrierId) : ((s.applyChange ch a).carrier d).pendingFlag = false := by
  rw [State.applyChange_carrier]
  split
  · cases a <;> rfl
  · next hd =>
    rw [Bool.eq_false_iff]
    intro hflag
    obtain ⟨ch', hch', rfl⟩ := (h.pending d).1 hflag
    rw [hc] at hch'
    cases hch'
    exact hd rfl

theorem State.applyChange_tallied {s : State} (h : s.CarriersSound) {ch : PendingChange} (hc : s.change = some ch)
    (a : ApplyAt) (d : CarrierId) : ((s.applyChange ch a).carrier d).Tallied := by
  rw [State.applyChange_carrier]
  split
  · have happlied := (Carrier.sound_iff.1 (h.records ch.carrier)).1.applied (h.target ch hc)
      (changedMap ch.kind ch.trib ch.positions (s.carrier ch.carrier).map)
    cases a
    · exact happlied
    · exact happlied.withIndications _
  · exact (Carrier.sound_iff.1 (h.records d)).1

theorem State.CarriersSound.applyChange {s : State} (h : s.CarriersSound) {ch : PendingChange} (hc : s.change = some ch) :
    (s.applyChange ch .expiry).CarriersSound := by
  refine State.carriersSound_of_no_change (fun d => ?_) (State.applyChange_pendingFlag h hc _) (s.applyChange_change ch _)
  refine Carrier.sound_iff.2 ⟨State.applyChange_tallied h hc _ d, ?_⟩
  rw [State.applyChange_carrier]
  split
  · exact Carrier.BytesAgree.expiry (h.records ch.carrier).bytes _ _ _
  · exact (h.records d).bytes

/-- Steps 4 and 5 leave a sound record in every carrier: they rewrite the bytes of carrier c from its map, and elsewhere turn
positions of silenced tributaries to ALARM (R65, R67). -/
theorem State.finishCycle_sound {s : State} {c : CarrierId} (htallied : ∀ d, (s.carrier d).Tallied)
    (hbytes : ∀ d, d ≠ c → (s.carrier d).BytesAgree) (s0 : State) (q : Option PendingChange) (d : CarrierId) :
    (((s.evaluateAll c).recomputeIndications c s0 s q).carrier d).Sound := by
  refine Carrier.sound_iff.2 ⟨?_, ?_⟩
  · rw [(State.recomputeIndications_keeps (s.evaluateAll c) c s0 s q).carrier d]
    exact (State.evaluateAll_tallied s c (htallied d)).withIndications _
  · by_cases hd : d = c
    · subst hd; exact State.recomputeIndications_bytesAgree _ _ _ _ _
    · rw [State.recomputeIndications_carrier _ _ _ _ _ _ hd]
      exact s.evaluateAll_bytesAgree c (hbytes d hd)

theorem State.finishCycle_carrier (s : State) (c : CarrierId) (s0 : State) (q : Option PendingChange) (d : CarrierId) :
    ((s.evaluateAll c).recomputeIndications c s0 s q).carrier d =
      { s.carrier d with
        indications := (((s.evaluateAll c).recomputeIndications c s0 s q).carrier d).indications } :=
  ((s.evaluateAll_keeps c).trans (State.recomputeIndications_keeps _ c s0 s q)).carrier d

theorem State.CarriersSound.cycleStart {s : State} (h : s.CarriersSound) (c : CarrierId) (p : BitVec 3)
    (hon : (s.carrier c).on = true) : (s.cycleStart c p).CarriersSound := by
  obtain ⟨hchange, -, -, -, -, -, -, -, -, hself, hother⟩ := s.countCycle_takePage_spec c p
  have hcounted : ((s.takePage c p).countCycle c).CarriersSound := by
    have hsame : ∀ d, (((s.takePage c p).countCycle c).carrier d).pendingFlag = (s.carrier d).pendingFlag ∧
        (((s.takePage c p).countCycle c).carrier d).on = (s.carrier d).on := fun d => by
      by_cases hd : d = c
      · subst hd; rw [hself]; exact ⟨rfl, rfl⟩
      · rw [hother d hd]; exact ⟨rfl, rfl⟩
    constructor
    · intro d
      by_cases hd : d = c
      · subst hd
        rw [hself]
        obtain ⟨cost, mapped, costLimit, -, bytes⟩ := h.records d
        exact ⟨cost, mapped, costLimit, fun hoff => (Bool.eq_false_iff.1 hoff hon).elim, bytes⟩
      · rw [hother d hd]; exact h.records d
    · intro d
      rw [(hsame d).1, hchange]
      exact h.pending d
    · intro ch hch
      rw [(hsame _).2]
      exact h.target ch (hchange ▸ hch)
  have hfinish : ∀ (s4 s0 : State) q, ((s4.evaluateAll c).recomputeIndications c s0 s4 q).change = s4.change := fun s4 s0 q =>
    ((s4.evaluateAll_keeps c).trans (State.recomputeIndications_keeps _ c s0 s4 q)).change
  unfold State.cycleStart
  dsimp only
  generalize (s.takePage c p).countCycle c = s0 at hcounted
  split
  · next ch hfor =>
    obtain ⟨hch, hcarrier⟩ := State.changeFor_eq_some hfor
    refine State.carriersSound_of_no_change (State.finishCycle_sound (State.applyChange_tallied hcounted hch _)
      (fun d hd => ?_) _ _) (fun d => ?_) ?_
    · rw [State.applyChange_carrier, if_neg (hcarrier ▸ hd)]
      exact (hcounted.records d).bytes
    · rw [State.finishCycle_carrier]
      dsimp only
      exact State.applyChange_pendingFlag hcounted hch _ d
    · rw [hfinish]
      exact State.applyChange_change ..
  · constructor
    · exact State.finishCycle_sound (fun d => (Carrier.sound_iff.1 (hcounted.records d)).1)
        (fun d _ => (hcounted.records d).bytes) _ _
    · intro d
      rw [State.finishCycle_carrier, hfinish]
      exact hcounted.pending d
    · intro ch hch
      rw [hfinish] at hch
      exact (congrArg Carrier.on (State.finishCycle_carrier ..)).trans (hcounted.target ch hch)

/-! ## Reset, and every event -/

theorem State.reset_carriersSound : State.reset.CarriersSound :=
  State.carriersSound_of_no_change
    (fun c => by
      rw [State.reset_carrier]
      exact Carrier.sound_of_empty (fun i => by simp [Carrier.reset]) rfl rfl rfl rfl fun i => by simp [Carrier.reset])
    (fun c => by rw [State.reset_carrier]; rfl) rfl

/-- The agreement of the carriers, beside the soundness of the processor, the tributaries and the maps, survives everything
that can happen. -/
theorem carriers_stepClosed :
    StepClosed fun s => ((s.ProcessorSound ∧ s.TributariesSound) ∧ s.MapSound) ∧ s.CarriersSound where
  channel s c h := ⟨maps_stepClosed.channel s c h.1, h.2.congr rfl rfl⟩
  pending s p h := ⟨maps_stepClosed.pending s p h.1, h.2.congr rfl rfl⟩
  stray s w h := ⟨maps_stepClosed.stray s w h.1, (raise_reported s _).carriersSound h.2⟩
  forward s w h hr hf := ⟨maps_stepClosed.forward s w h.1 hr hf,
    ((s.forwardWrite_keepsControl w).carriersSound h.2).congr (State.noteWrite_carriers ..) (State.noteWrite_change ..)⟩
  hold s r b h := ⟨maps_stepClosed.hold s r b h.1, (s.holdRead_keepsControl r b).carriersSound h.2⟩
  cycle s c p h hon := ⟨maps_stepClosed.cycle s c p h.1 hon, h.2.cycleStart c p hon⟩
  accept s i r h hi hn := ⟨maps_stepClosed.accept s i r h.1 hi hn, (s.acceptRead_keepsControl i r).carriersSound h.2⟩
  stale s h := ⟨maps_stepClosed.stale s h.1, (report_reported s _).carriersSound h.2⟩
  run s r c h hi := ⟨maps_stepClosed.run s r c h.1 hi, .run h.1.1.1 h.1.1.2 h.1.2 h.2 hi r c⟩
  fetchFails s h hi := ⟨maps_stepClosed.fetchFails s h.1 hi,
    State.CarriersSound.completeWith (s := s.freeFetch) (h.2.congr rfl rfl) none _ _⟩
  answer s k result words h hk := ⟨maps_stepClosed.answer s k result words h.1 hk,
    (s.answer_keepsControl k result words).carriersSound h.2⟩
  late s k h hk := ⟨maps_stepClosed.late s k h.1 hk, (s.lateArrival_keepsControl k).carriersSound h.2⟩
  depart s i rest h hr := ⟨maps_stepClosed.depart s i rest h.1 hr, (s.depart_keepsControl i).carriersSound h.2⟩
  apply s ch h hc := ⟨maps_stepClosed.apply s ch h.1 hc, h.2.applyChange hc⟩
  expire s k h hk := ⟨maps_stepClosed.expire s k h.1 hk, (s.expireSub_keepsControl k).carriersSound h.2⟩
  abandon s k h hk := ⟨maps_stepClosed.abandon s k h.1 hk, (s.abandonSub_keepsControl k).carriersSound h.2⟩
  tick s h := ⟨maps_stepClosed.tick s h.1, h.2.congr rfl rfl⟩
  reset s h := ⟨maps_stepClosed.reset s h.1, State.reset_carriersSound.congr rfl rfl⟩
  taken s q rest h hq := ⟨maps_stepClosed.taken s q rest h.1 hq, h.2.congr rfl rfl⟩

/-- Settles O55: the carriers agree with their maps and the pending change after every event, hence after every step. -/
theorem everyStepKeepsCarriers : Obligations.EveryStepKeepsCarriers := fun s t hp ht hm h hstep =>
  (carriers_stepClosed.step s t ⟨⟨⟨hp, ht⟩, hm⟩, h⟩ hstep).2

end Sys2Proof.Machine
end

section
/-! SUPPORT. The translation tables (R94, R95, R107, R108): the source lists and the ready responses through openings, accounts
and departures, the outstanding counts against the sub-read table, and the statement that every step keeps both. -/

namespace Sys2Proof.Machine

/-! ## Lists and ready responses -/

/-- The source lists are sound, and every ready response is COMPLETE and first in its list; others may have become ready since
(R95, R108). -/
structure State.ListsQueued (s : State) : Prop where
  nodup : ∀ src : Source, (s.sourceList src).Nodup
  held : ∀ (src : Source) (i : Fin 32), i ∈ s.sourceList src ↔ (s.parent i).state ≠ .free ∧ (s.parent i).source = src
  readyNodup : s.translation.ready.Nodup
  ready : ∀ i ∈ s.translation.ready,
    (s.parent i).state = .complete ∧ (s.sourceList (s.parent i).source).head? = some i

theorem Translation.ListsSound.queued {s : State} (h : s.translation.ListsSound) : s.ListsQueued :=
  ⟨h.nodup, h.held, h.readyNodup, fun i hi => (h.ready i).1 hi⟩

theorem State.ListsQueued.source_of_head {s : State} (h : s.ListsQueued) {src : Source} {i : Fin 32}
    (hi : (s.sourceList src).head? = some i) : (s.parent i).source = src :=
  ((h.held src i).1 (List.mem_of_mem_head? hi)).2

/-- The responses that have become ready join, and the lists are sound (R108, R109). -/
theorem State.ListsQueued.refresh {s : State} (h : s.ListsQueued) : s.refreshReady.translation.ListsSound := by
  have hnew : ∀ src i, s.translation.newlyReady src = some i ↔
      (s.sourceList src).head? = some i ∧ (s.parent i).state = .complete ∧ i ∉ s.translation.ready :=
    s.translation.newlyReady_eq_some
  have hready : s.refreshReady.translation.ready =
      s.translation.ready ++ (List.finRange 16).filterMap s.translation.newlyReady := rfl
  have hmem : ∀ i, i ∈ (List.finRange 16).filterMap s.translation.newlyReady ↔ ∃ src, s.translation.newlyReady src = some i :=
    fun i => by simp [List.mem_filterMap]
  refine ⟨h.nodup, h.held, ?_, fun i => ?_⟩
  · rw [hready, List.nodup_append]
    refine ⟨h.readyNodup, ?_, fun i hi j hj hij => ?_⟩
    · refine (List.nodup_finRange 16).filterMap fun a b i ha hb => ?_
      rw [Option.mem_def, hnew] at ha hb
      rw [← h.source_of_head ha.1, ← h.source_of_head hb.1]
    · obtain ⟨src, hsrc⟩ := (hmem j).1 hj
      exact ((hnew src j).1 hsrc).2.2 (hij ▸ hi)
  · rw [hready, List.mem_append, hmem]
    change _ ↔ (s.parent i).state = .complete ∧ (s.sourceList (s.parent i).source).head? = some i
    constructor
    · rintro (hi | ⟨src, hsrc⟩)
      · exact h.ready i hi
      · obtain ⟨hhead, hcomplete, -⟩ := (hnew src i).1 hsrc
        exact ⟨hcomplete, (h.source_of_head hhead).symm ▸ hhead⟩
    · rintro ⟨hcomplete, hhead⟩
      by_cases hi : i ∈ s.translation.ready
      · exact .inl hi
      · exact .inr ⟨_, (hnew _ i).2 ⟨hhead, hcomplete, hi⟩⟩

/-- The soundness of the lists looks at the parents, the lists and the ready responses alone. -/
theorem Translation.ListsSound.congr {a b : Translation} (h : a.ListsSound) (hp : b.parents = a.parents)
    (hl : b.lists = a.lists) (hr : b.ready = a.ready) : b.ListsSound := by
  obtain ⟨nodup, held, readyNodup, ready⟩ := h
  constructor <;> simpa only [hp, hl, hr]

theorem State.ListsQueued.congr {s t : State} (h : s.ListsQueued) (ht : t.translation = s.translation) : t.ListsQueued := by
  have hp : ∀ i, t.parent i = s.parent i := fun i => by unfold State.parent; rw [ht]
  have hl : ∀ src, t.sourceList src = s.sourceList src := fun src => by unfold State.sourceList; rw [ht]
  obtain ⟨nodup, held, readyNodup, ready⟩ := h
  constructor <;> simpa only [hp, hl, ht]

theorem State.openParent_eq (s : State) (i : Fin 32) (r : URead) (cls : ReadClass) (c : Option CarrierId)
    (words : List (Option Word)) (status : Status) (n : Nat) :
    s.openParent i r cls c words status n =
      ((s.setParent i (parentEntry r cls c words status n)).setSourceList r.source (s.sourceList r.source ++ [i])).refreshReady :=
  rfl

/-- A read that is accepted joins the list of its source at the end (R95). -/
theorem State.openParent_listsSound {s : State} (h : s.translation.ListsSound) {i : Fin 32} (hi : (s.parent i).state = .free)
    (r : URead) (cls : ReadClass) (c : Option CarrierId) (words : List (Option Word)) (status : Status) (n : Nat) :
    (s.openParent i r cls c words status n).translation.ListsSound := by
  have hq := h.queued
  have hnot : ∀ src, i ∉ s.sourceList src := fun src hm => ((hq.held src i).1 hm).1 hi
  have hne : (parentEntry r cls c words status n).state ≠ .free := by
    dsimp only [parentEntry]
    split <;> decide
  rw [State.openParent_eq]
  generalize hp : (parentEntry r cls c words status n : Parent) = p at hne
  have hsrc : p.source = r.source := by rw [← hp]
  refine State.ListsQueued.refresh ⟨fun src => ?_, fun src j => ?_, h.readyNodup, fun j hj => ?_⟩
  · by_cases hs : src = r.source
    · subst hs
      rw [State.sourceList_setSourceList_self]
      exact List.nodup_append.2 ⟨hq.nodup _, List.nodup_singleton i, fun x hx y hy hxy =>
        hnot r.source (List.mem_singleton.1 hy ▸ hxy ▸ hx)⟩
    · rw [State.sourceList_setSourceList_ne _ _ _ _ hs]
      exact hq.nodup src
  · rw [State.setSourceList_parent]
    by_cases hj : j = i
    · subst hj
      rw [State.parent_setParent_self, hsrc]
      by_cases hs : src = r.source
      · subst hs; simp [hne]
      · rw [State.sourceList_setSourceList_ne _ _ _ _ hs]
        exact iff_of_false (hnot src) fun hh => hs hh.2.symm
    · rw [State.parent_setParent_ne _ _ _ _ hj]
      by_cases hs : src = r.source
      · subst hs
        rw [State.sourceList_setSourceList_self, List.mem_append, List.mem_singleton, or_iff_left hj]
        exact hq.held _ j
      · rw [State.sourceList_setSourceList_ne _ _ _ _ hs]
        exact hq.held src j
  · obtain ⟨hcomplete, hhead⟩ := hq.ready j hj
    have hji : j ≠ i := by
      rintro rfl
      rw [hi] at hcomplete
      cases hcomplete
    rw [State.setSourceList_parent, State.parent_setParent_ne _ _ _ _ hji]
    refine ⟨hcomplete, ?_⟩
    by_cases hs : (s.parent j).source = r.source
    · rw [hs] at hhead ⊢
      rw [State.sourceList_setSourceList_self, List.head?_append, hhead, Option.some_or]
    · rw [State.sourceList_setSourceList_ne _ _ _ _ hs]
      exact hhead

/-- An account of an OPEN parent leaves it OPEN or makes it COMPLETE, at its place in its list (R107, R108). -/
theorem State.accountParent_listsSound {s : State} (h : s.translation.ListsSound) {i : Fin 32}
    (hi : (s.parent i).state = .opened) {p : Parent} (hp : p.source = (s.parent i).source) (hf : p.state ≠ .free)
    (o : Option Occurrence) : (s.accountParent i p o).translation.ListsSound := by
  have hq := h.queued
  have hrep : Reported (s.setParent i p) (((s.setParent i p).reportIf o).raiseReadFault p) :=
    (State.reportIf_reported _ _).trans (State.raiseReadFault_reported _ _)
  unfold State.accountParent
  have hset : (s.setParent i p).ListsQueued := by
    refine ⟨hq.nodup, fun src j => ?_, h.readyNodup, fun j hj => ?_⟩
    · by_cases hj : j = i
      · subst hj
        rw [State.parent_setParent_self, hp]
        exact (hq.held src j).trans (and_congr_left fun _ => iff_of_true (by rw [hi]; decide) hf)
      · rw [State.parent_setParent_ne _ _ _ _ hj]
        exact hq.held src j
    · obtain ⟨hcomplete, hhead⟩ := hq.ready j hj
      have hji : j ≠ i := by
        rintro rfl
        rw [hi] at hcomplete
        cases hcomplete
      rw [State.parent_setParent_ne _ _ _ _ hji]
      exact ⟨hcomplete, hhead⟩
  exact (hset.congr hrep.translation).refresh

/-- The state of a departure before the next responses join: the entry FREE, its list and the ready responses without their
first (R108, R109). -/
def State.departed (s : State) (i : Fin 32) : State :=
  let p := s.parent i
  let t := (s.setParent i { p with state := .free }).setSourceList p.source (s.sourceList p.source).tail
  { t with
    translation := { t.translation with ready := t.translation.ready.tail }
    outputs := { t.outputs with responses := t.outputs.responses ++ [p.response] } }

theorem State.depart_eq (s : State) (i : Fin 32) : s.depart i = (s.departed i).refreshReady.noteFreed := rfl

theorem State.departed_parent_self (s : State) (i : Fin 32) :
    (s.departed i).parent i = { s.parent i with state := .free } := State.parent_setParent_self ..

theorem State.departed_parent_ne (s : State) {i j : Fin 32} (h : j ≠ i) : (s.departed i).parent j = s.parent j :=
  State.parent_setParent_ne _ _ _ _ h

theorem State.departed_sourceList_self (s : State) (i : Fin 32) :
    (s.departed i).sourceList (s.parent i).source = (s.sourceList (s.parent i).source).tail :=
  State.sourceList_setSourceList_self ..

theorem State.departed_sourceList_ne (s : State) (i : Fin 32) {src : Source} (h : src ≠ (s.parent i).source) :
    (s.departed i).sourceList src = s.sourceList src := State.sourceList_setSourceList_ne (s.setParent i _) _ _ _ h

theorem State.departed_ready (s : State) (i : Fin 32) : (s.departed i).translation.ready = s.translation.ready.tail := rfl

/-- The response that departs is the first of its source. -/
theorem Translation.ListsSound.list_of_ready {s : State} (h : s.translation.ListsSound) {i : Fin 32} {rest : List (Fin 32)}
    (hr : s.translation.ready = i :: rest) :
    s.sourceList (s.parent i).source = i :: (s.sourceList (s.parent i).source).tail := by
  obtain ⟨-, hhead⟩ := h.queued.ready i (hr ▸ List.mem_cons_self ..)
  obtain ⟨tl, htl⟩ := List.head?_eq_some_iff.1 hhead
  rw [htl, List.tail_cons]

theorem State.departed_listsQueued {s : State} (h : s.translation.ListsSound) {i : Fin 32} {rest : List (Fin 32)}
    (hr : s.translation.ready = i :: rest) : (s.departed i).ListsQueued := by
  have hq := h.queued
  have hlist := h.list_of_ready hr
  have hnd := hq.nodup (s.parent i).source
  rw [hlist, List.nodup_cons] at hnd
  have hready := hq.readyNodup
  rw [hr, List.nodup_cons] at hready
  refine ⟨fun src => ?_, fun src j => ?_, ?_, fun j hj => ?_⟩
  · by_cases hs : src = (s.parent i).source
    · rw [hs, State.departed_sourceList_self]; exact hnd.2
    · rw [State.departed_sourceList_ne _ _ hs]; exact hq.nodup src
  · by_cases hj : j = i
    · subst hj
      rw [State.departed_parent_self]
      refine iff_of_false (fun hm => ?_) fun hh => hh.1 rfl
      by_cases hs : src = (s.parent j).source
      · rw [hs, State.departed_sourceList_self] at hm; exact hnd.1 hm
      · rw [State.departed_sourceList_ne _ _ hs] at hm
        exact hs ((hq.held src j).1 hm).2.symm
    · rw [State.departed_parent_ne _ hj]
      by_cases hs : src = (s.parent i).source
      · rw [hs, State.departed_sourceList_self, ← hq.held, hlist, List.mem_cons, or_iff_right hj]; rfl
      · rw [State.departed_sourceList_ne _ _ hs]; exact hq.held src j
  · rw [State.departed_ready, hr]; exact hready.2
  · rw [State.departed_ready, hr, List.tail_cons] at hj
    obtain ⟨hcomplete, hhead⟩ := hq.ready j (hr ▸ List.mem_cons_of_mem _ hj)
    have hji : j ≠ i := fun hji => hready.1 (hji ▸ hj)
    have hsrc : (s.parent j).source ≠ (s.parent i).source := fun hs => by
      rw [hs, hlist] at hhead
      exact hji (Option.some.inj hhead).symm
    rw [State.departed_parent_ne _ hji, State.departed_sourceList_ne _ _ hsrc]
    exact ⟨hcomplete, hhead⟩

theorem State.noteFreed_translation (s : State) : s.noteFreed.translation = s.translation := by
  rw [State.noteFreed_eq]
  rfl

theorem State.depart_listsSound {s : State} (h : s.translation.ListsSound) {i : Fin 32} {rest : List (Fin 32)}
    (hr : s.translation.ready = i :: rest) : (s.depart i).translation.ListsSound := by
  rw [State.depart_eq, State.noteFreed_translation]
  exact (State.departed_listsQueued h hr).refresh

/-! ## Outstanding counts -/

/-- An entry counts for parent i while it is ISSUED (R107). -/
def SubRead.serves (e : SubRead) (i : Fin 32) : Bool := e.state = .issued && e.parent == i

theorem State.issuedFor_replaced {s t : State} {k : Fin 64} {e : SubRead}
    (h : t.translation.subReads = s.translation.subReads.set k e) (i : Fin 32) :
    t.translation.issuedFor i + (if (s.sub k).serves i then 1 else 0) =
      s.translation.issuedFor i + (if e.serves i then 1 else 0) := by
  have := countTable_set (SubRead.serves · i) s.translation.subReads k e
  rw [← h] at this
  exact this

/-- An ISSUED entry's parent is OPEN (R107). -/
theorem Translation.AccountsSound.opened_of_issued {s : State} (h : s.translation.AccountsSound) {k : Fin 64}
    (hk : (s.sub k).state = .issued) : (s.parent (s.sub k).parent).state = .opened := by
  refine (h (s.sub k).parent).2.2 fun hzero => ?_
  have := countTable_eq_zero.1 hzero k
  rw [show s.translation.subReads[k] = s.sub k from rfl] at this
  simp [hk] at this

theorem Translation.AccountsSound.congr {a b : Translation} (h : a.AccountsSound) (hp : b.parents = a.parents)
    (hs : b.subReads = a.subReads) : b.AccountsSound := by
  intro i
  unfold Translation.issuedFor
  rw [hp, hs]
  exact h i

/-- The accounts after an ISSUED entry that is answered or expires: its parent's count falls by 1, and at 0 the parent is
COMPLETE (R107). -/
theorem Translation.AccountsSound.settle {s t : State} (h : s.translation.AccountsSound) {k : Fin 64}
    (hk : (s.sub k).state = .issued) {e : SubRead} (he : e.state ≠ .issued)
    (hsub : t.translation.subReads = s.translation.subReads.set k e)
    (hself : (t.parent (s.sub k).parent).outstanding = (s.parent (s.sub k).parent).outstanding - 1 ∧
      (t.parent (s.sub k).parent).state =
        if (s.parent (s.sub k).parent).outstanding ≤ 1 then .complete else (s.parent (s.sub k).parent).state)
    (hother : ∀ j, j ≠ (s.sub k).parent → t.parent j = s.parent j) : t.translation.AccountsSound := by
  have hopened := h.opened_of_issued hk
  intro i
  change (t.parent i).outstanding = _ ∧ ((t.parent i).state = _ ↔ _)
  have hold : (s.parent i).outstanding = s.translation.issuedFor i ∧
      ((s.parent i).state = .opened ↔ s.translation.issuedFor i ≠ 0) := h i
  have hcount := State.issuedFor_replaced hsub i
  have hnot : e.serves i = false := by simp [SubRead.serves, he]
  rw [hnot, if_neg Bool.false_ne_true] at hcount
  by_cases hi : i = (s.sub k).parent
  · subst hi
    have hserves : (s.sub k).serves (s.sub k).parent = true := by simp [SubRead.serves, hk]
    rw [hserves, if_pos rfl] at hcount
    obtain ⟨houtstanding, hstate⟩ := hself
    rw [houtstanding, hstate, hold.1]
    refine ⟨by omega, ?_⟩
    split
    · exact iff_of_false nofun (by omega)
    · exact iff_of_true hopened (by omega)
  · have hserves : (s.sub k).serves i = false := by simp [SubRead.serves, Ne.symm hi]
    rw [hserves, if_neg Bool.false_ne_true] at hcount
    rw [hother i hi, show t.translation.issuedFor i = s.translation.issuedFor i by omega]
    exact hold

/-- An entry that is not ISSUED, before and after, counts for no parent. -/
theorem Translation.AccountsSound.replaceIdle {s t : State} (h : s.translation.AccountsSound) {k : Fin 64}
    (hk : (s.sub k).state ≠ .issued) {e : SubRead} (he : e.state ≠ .issued)
    (hsub : t.translation.subReads = s.translation.subReads.set k e)
    (hparents : t.translation.parents = s.translation.parents) : t.translation.AccountsSound := by
  intro i
  have hcount := State.issuedFor_replaced hsub i
  simp only [SubRead.serves, hk, he, decide_false, Bool.false_and, Bool.false_eq_true, if_false, Nat.add_zero] at hcount
  rw [hcount, hparents]
  exact h i

/-- The accounts after a FREE parent entry is taken with as many sub-reads issued for it as it waits for (R94, R96). -/
theorem Translation.AccountsSound.open {s t : State} (h : s.translation.AccountsSound) {i : Fin 32} {n : Nat}
    (hi : (s.parent i).state = .free) (hself : (t.parent i).outstanding = n ∧
      (t.parent i).state = if n = 0 then .complete else .opened)
    (hother : ∀ j, j ≠ i → t.parent j = s.parent j)
    (hcount : ∀ j, t.translation.issuedFor j = s.translation.issuedFor j + if j = i then n else 0) :
    t.translation.AccountsSound := by
  intro j
  change (t.parent j).outstanding = _ ∧ ((t.parent j).state = _ ↔ _)
  have hold : (s.parent j).outstanding = s.translation.issuedFor j ∧
      ((s.parent j).state = .opened ↔ s.translation.issuedFor j ≠ 0) := h j
  rw [hcount]
  by_cases hj : j = i
  · subst hj
    have hzero : s.translation.issuedFor j = 0 := by
      by_contra hne
      rw [hold.2.2 hne] at hi
      cases hi
    obtain ⟨houtstanding, hstate⟩ := hself
    rw [houtstanding, hstate, hzero, if_pos rfl, Nat.zero_add]
    refine ⟨rfl, ?_⟩
    split
    · next hn => exact iff_of_false nofun (not_not.2 hn)
    · next hn => exact iff_of_true rfl hn
  · rw [hother j hj, if_neg hj]
    exact hold

/-! ## Sub-reads answered, expired and released -/

theorem Parent.withWords_state (p : Parent) (first : Nat) (words : List Word) :
    (p.withWords first words).state = p.state ∧ (p.withWords first words).outstanding = p.outstanding := by
  unfold Parent.withWords
  split <;> exact ⟨rfl, rfl⟩

theorem Parent.answered_settled (p : Parent) (e : SubRead) (result : MemResult) (words : List Word) :
    (p.answered e result words).outstanding = p.outstanding - 1 ∧
      (p.answered e result words).state = if p.outstanding ≤ 1 then .complete else p.state := by
  obtain ⟨hstate, houtstanding⟩ := p.withWords_state e.first (answerWords p e words)
  unfold Parent.answered Parent.settled
  dsimp only
  split <;> rw [← hstate, ← houtstanding] <;> exact ⟨rfl, rfl⟩

theorem Parent.expired_settled (p : Parent) (e : SubRead) (fill : Word) :
    (p.expired e fill).outstanding = p.outstanding - 1 ∧
      (p.expired e fill).state = if p.outstanding ≤ 1 then .complete else p.state := by
  obtain ⟨hstate, houtstanding⟩ := p.withWords_state e.first (List.replicate e.length fill)
  unfold Parent.expired Parent.settled
  dsimp only
  rw [← hstate, ← houtstanding]
  exact ⟨rfl, rfl⟩

/-- The parents, the source lists and the ready responses are left alone. -/
structure KeepsQueues (s t : State) : Prop where
  parents : t.translation.parents = s.translation.parents
  lists : t.translation.lists = s.translation.lists
  ready : t.translation.ready = s.translation.ready

theorem KeepsQueues.refl (s : State) : KeepsQueues s s := ⟨rfl, rfl, rfl⟩

theorem KeepsQueues.trans {s t u : State} (h : KeepsQueues s t) (h' : KeepsQueues t u) : KeepsQueues s u :=
  ⟨h'.parents.trans h.parents, h'.lists.trans h.lists, h'.ready.trans h.ready⟩

theorem KeepsQueues.of_translation {s t : State} (h : t.translation = s.translation) : KeepsQueues s t := by
  constructor <;> rw [h]

theorem KeepsQueues.listsSound {s t : State} (h : KeepsQueues s t) (hs : s.translation.ListsSound) :
    t.translation.ListsSound := hs.congr h.parents h.lists h.ready

theorem KeepsQueues.parent {s t : State} (h : KeepsQueues s t) (i : Fin 32) : t.parent i = s.parent i := by
  unfold State.parent; rw [h.parents]

theorem State.release_keepsQueues (s : State) (k : Fin 64) : KeepsQueues s (s.release k) := by
  obtain ⟨-, hparents, hlists, hready⟩ := s.release_spec s k rfl rfl rfl rfl rfl rfl rfl rfl rfl
  exact ⟨hparents, hlists, hready⟩

theorem State.release_subReads (s : State) (k : Fin 64) :
    (s.release k).translation.subReads = s.translation.subReads.set k { s.sub k with state := .free } :=
  (s.release_releases k).subReads

/-- Both tables are in agreement (R94, R95, R107, R108). -/
def State.TablesSound (s : State) : Prop := s.translation.ListsSound ∧ s.translation.AccountsSound

theorem State.TablesSound.congr {s t : State} (h : s.TablesSound) (ht : t.translation = s.translation) : t.TablesSound := by
  unfold State.TablesSound
  rw [ht]
  exact h

theorem Reported.tablesSound {s t : State} (h : Reported s t) (hs : s.TablesSound) : t.TablesSound := hs.congr h.translation

/-- The release of an entry that no parent waits for. -/
theorem State.TablesSound.release {s : State} (h : s.TablesSound) {k : Fin 64} (hk : (s.sub k).state ≠ .issued) :
    (s.release k).TablesSound :=
  ⟨(s.release_keepsQueues k).listsSound h.1,
    h.2.replaceIdle hk (e := { s.sub k with state := .free }) nofun (s.release_subReads k) (s.release_keepsQueues k).parents⟩

/-- The account of a parent that settles an ISSUED entry, and the entry's release (R107, R123). -/
theorem State.TablesSound.settle {s : State} (h : s.TablesSound) {k : Fin 64} (hk : (s.sub k).state = .issued) {p : Parent}
    (hsource : p.source = (s.parent (s.sub k).parent).source)
    (hsettled : p.outstanding = (s.parent (s.sub k).parent).outstanding - 1 ∧ p.state =
      if (s.parent (s.sub k).parent).outstanding ≤ 1 then .complete else (s.parent (s.sub k).parent).state)
    (o : Option Occurrence) : ((s.accountParent (s.sub k).parent p o).release k).TablesSound := by
  have hopened := h.2.opened_of_issued hk
  have hstate : p.state ≠ .free := by
    rw [hsettled.2, hopened]
    split <;> decide
  obtain ⟨hself, hother, -, hsub, -⟩ := s.accountParent_spec (s.sub k).parent p o
  have hlists := State.accountParent_listsSound h.1 hopened hsource hstate o
  generalize s.accountParent (s.sub k).parent p o = w at *
  have hkeeps := w.release_keepsQueues k
  have hsame : w.sub k = s.sub k := by unfold State.sub; rw [hsub]
  refine ⟨hkeeps.listsSound hlists, h.2.settle hk (e := { s.sub k with state := .free }) nofun ?_ ?_ fun j hj => ?_⟩
  · rw [w.release_subReads, hsub, hsame]
  · rw [hkeeps.parent, hself]; exact hsettled
  · rw [hkeeps.parent]; exact hother j hj

theorem State.TablesSound.answer {s : State} (h : s.TablesSound) {k : Fin 64} (hk : (s.sub k).state = .issued)
    (result : MemResult) (words : List Word) : (s.answer k result words).TablesSound :=
  h.settle hk (Parent.answered_source ..) (Parent.answered_settled ..) _

theorem State.TablesSound.expireSub {s : State} (h : s.TablesSound) {k : Fin 64} (hk : (s.sub k).state = .issued) :
    (s.expireSub k).TablesSound := by
  have hopened := h.2.opened_of_issued hk
  have hsettled := (s.parent (s.sub k).parent).expired_settled (s.sub k) (s.expiryWord (s.sub k))
  have hset : (s.setSub k { s.sub k with state := .expired }).translation.ListsSound := h.1.congr rfl rfl rfl
  unfold State.expireSub
  dsimp only
  generalize hp : (s.parent (s.sub k).parent).expired (s.sub k) (s.expiryWord (s.sub k)) = p at hsettled
  have hsource : p.source = (s.parent (s.sub k).parent).source := hp ▸ Parent.expired_source ..
  have hstate : p.state ≠ .free := by
    rw [hsettled.2, hopened]
    split <;> decide
  obtain ⟨hself, hother, -, hsub, -⟩ := (s.setSub k { s.sub k with state := .expired }).accountParent_spec (s.sub k).parent p
    (some ⟨.lateSubreads, 1, (s.sub k).carrier, (s.sub k).trib⟩)
  refine ⟨State.accountParent_listsSound hset hopened hsource hstate _,
    h.2.settle hk (e := { s.sub k with state := .expired }) nofun hsub ?_ hother⟩
  rw [hself]
  exact hsettled

theorem State.depart_parent (s : State) (i j : Fin 32) : (s.depart i).parent j = (s.departed i).parent j := by
  unfold State.parent
  rw [State.depart_eq, State.noteFreed_translation]
  rfl

theorem State.depart_subReads (s : State) (i : Fin 32) : (s.depart i).translation.subReads = s.translation.subReads := by
  rw [State.depart_eq, State.noteFreed_translation]
  rfl

theorem State.TablesSound.depart {s : State} (h : s.TablesSound) {i : Fin 32} {rest : List (Fin 32)}
    (hr : s.translation.ready = i :: rest) : (s.depart i).TablesSound := by
  refine ⟨State.depart_listsSound h.1 hr, fun j => ?_⟩
  have hold : (s.parent j).outstanding = s.translation.issuedFor j ∧
      ((s.parent j).state = .opened ↔ s.translation.issuedFor j ≠ 0) := h.2 j
  have hcount : (s.depart i).translation.issuedFor j = s.translation.issuedFor j := by
    unfold Translation.issuedFor; rw [State.depart_subReads]
  change ((s.depart i).parent j).outstanding = _ ∧ (((s.depart i).parent j).state = _ ↔ _)
  rw [hcount, State.depart_parent]
  by_cases hj : j = i
  · subst hj
    obtain ⟨hcomplete, -⟩ := h.1.queued.ready j (hr ▸ List.mem_cons_self ..)
    rw [State.departed_parent_self]
    refine ⟨hold.1, iff_of_false nofun fun hne => ?_⟩
    rw [hold.2.2 hne] at hcomplete
    cases hcomplete
  · rw [State.departed_parent_ne _ hj]
    exact hold

/-! ## Acceptances -/

theorem State.allocate_keepsQueues (s : State) (i : Fin 32) (first length : Nat) (t : Option TribId) (c : Option CarrierId)
    (a : Addr) (o : Origin) : KeepsQueues s (s.allocate i first length t c a o) := by
  unfold State.allocate
  split <;> exact ⟨rfl, rfl, rfl⟩

theorem State.issuePiece_keepsQueues (s : State) (i : Fin 32) (c : CarrierId) (p : Piece) :
    KeepsQueues s (s.issuePiece i c p) :=
  (s.allocate_keepsQueues i p.first p.length (some p.trib) (some c) (slotAddress p.trib p.page p.slot) .own).trans
    (.of_translation (report_reported (State.setTrib _ p.trib _) _).translation)

theorem foldl_issuePiece_keepsQueues (i : Fin 32) (c : CarrierId) (ps : List Piece) (s : State) :
    KeepsQueues s (ps.foldl (fun s p => s.issuePiece i c p) s) := by
  induction ps generalizing s with
  | nil => exact .refl s
  | cons p ps ih => exact (s.issuePiece_keepsQueues i c p).trans (ih _)

/-- An entry that is allocated serves its parent. -/
theorem State.issuedFor_of_allocated {s t : State} {k : Fin 64} {e : SubRead} {i : Fin 32} (hk : (s.sub k).state = .free)
    (he : e.state = .issued) (hp : e.parent = i) (hsub : t.translation.subReads = s.translation.subReads.set k e)
    (j : Fin 32) : t.translation.issuedFor j = s.translation.issuedFor j + if j = i then 1 else 0 := by
  have hcount := State.issuedFor_replaced hsub j
  have hnot : (s.sub k).serves j = false := by simp [SubRead.serves, hk]
  have hserves : e.serves j = true ↔ j = i := by
    simp only [SubRead.serves, he, hp, decide_true, Bool.true_and, beq_iff_eq]
    exact eq_comm
  rw [hnot, if_neg Bool.false_ne_true, Nat.add_zero] at hcount
  simp only [hcount, hserves]

theorem foldl_issuePiece_issuedFor (i : Fin 32) (c : CarrierId) (ps : List Piece) {s : State}
    (hlen : ps.length ≤ s.freeSubs.length) (j : Fin 32) :
    (ps.foldl (fun s p => s.issuePiece i c p) s).translation.issuedFor j =
      s.translation.issuedFor j + if j = i then ps.length else 0 := by
  induction ps generalizing s with
  | nil => simp
  | cons p ps ih =>
    obtain ⟨k, rest, hk⟩ : ∃ k rest, s.freeSubs = k :: rest :=
      List.exists_cons_of_ne_nil fun hnil => by rw [hnil] at hlen; exact absurd hlen (Nat.not_succ_le_zero _)
    obtain ⟨hrest, hself, hothers, -⟩ := s.issuePiece_spec i c p k rest hk
    have hfree : (s.sub k).state = .free := State.freeSubs_state (hk ▸ List.mem_cons_self ..)
    have hone := State.issuedFor_of_allocated (i := i) hfree rfl rfl (subReads_eq_set hself hothers) j
    rw [hk] at hlen
    rw [List.foldl_cons, ih (by rw [hrest]; exact Nat.le_of_succ_le_succ hlen), hone, List.length_cons]
    split <;> omega

/-- A read taken into a FREE parent entry (o) with n sub-reads, all of them issued (w). -/
theorem State.TablesSound.opened {s : State} (h : s.TablesSound) {i : Fin 32} (hi : (s.parent i).state = .free) {r : URead}
    {cls : ReadClass} {c : Option CarrierId} {words : List (Option Word)} {status : Status} {n : Nat} {o w : State}
    (ho : s.openParent i r cls c words status n = o) (hkeeps : KeepsQueues o w)
    (hcount : ∀ j, w.translation.issuedFor j = o.translation.issuedFor j + if j = i then n else 0) : w.TablesSound := by
  obtain ⟨hself, hother, -⟩ := s.openParent_spec i r cls c words status n h.1 hi
  have hlists := State.openParent_listsSound h.1 hi r cls c words status n
  have hissued : ∀ j, o.translation.issuedFor j = s.translation.issuedFor j := fun j => ho ▸ rfl
  rw [ho] at hself hother hlists
  refine ⟨hkeeps.listsSound hlists, h.2.open hi (n := n) ?_ (fun j hj => ?_) fun j => by rw [hcount, hissued]⟩
  · rw [hkeeps.parent, hself]
    exact ⟨rfl, rfl⟩
  · rw [hkeeps.parent, hother j hj]

theorem State.TablesSound.opened_complete {s : State} (h : s.TablesSound) {i : Fin 32} (hi : (s.parent i).state = .free)
    {r : URead} {cls : ReadClass} {c : Option CarrierId} {words : List (Option Word)} {status : Status} {w : State}
    (hrep : Reported (s.openParent i r cls c words status 0) w) : w.TablesSound :=
  h.opened hi rfl (.of_translation hrep.translation) fun j => by rw [hrep.translation, ite_self, Nat.add_zero]

theorem State.TablesSound.acceptTranslated {s : State} (h : s.TablesSound) {i : Fin 32} (hi : (s.parent i).state = .free)
    (r : URead) (hn : (cutPieces 0 (s.wordKinds r)).length ≤ s.freeSubReads) : (s.acceptTranslated i r).TablesSound := by
  unfold State.acceptTranslated
  dsimp only
  generalize ho : s.openParent i r .translated _ _ _ _ = o
  have hrep := foldl_report_reported (⟨.carrierReads, 1, some (windowCarrier r.address), none⟩ ::
      fillOccurrences o.draws (windowCarrier r.address) (s.wordKinds r))
    { o with draws := drawn (alarmTribs o.draws (s.wordKinds r)).length o.draws }
  have htranslation := hrep.translation
  have hsub : o.translation.subReads = s.translation.subReads := ho ▸ rfl
  refine h.opened hi ho (.trans ?_ (foldl_issuePiece_keepsQueues i _ _ _)) fun j => ?_
  · exact .of_translation htranslation
  · rw [foldl_issuePiece_issuedFor, htranslation]
    rw [State.freeSubs_congr (hrep.subReads.trans hsub), ← State.freeSubReads_eq]
    exact hn

theorem State.TablesSound.acceptPass {s : State} (h : s.TablesSound) {i : Fin 32} (hi : (s.parent i).state = .free)
    (r : URead) (hn : 1 ≤ s.freeSubReads) : (s.acceptPass i r).TablesSound := by
  unfold State.acceptPass
  dsimp only
  generalize ho : s.openParent i r .pass _ _ _ _ = o
  have hrep := report_reported (o.allocate i 0 r.length.toNat none none r.address .forwarded) ⟨.passReads, 1, none, none⟩
  refine h.opened hi ho ((o.allocate_keepsQueues ..).trans (.of_translation hrep.translation)) fun j => ?_
  rw [hrep.translation]
  have hfree : o.freeSubs = s.freeSubs := State.freeSubs_congr (ho ▸ rfl)
  obtain ⟨k, rest, hk⟩ : ∃ k rest, o.freeSubs = k :: rest :=
    List.exists_cons_of_ne_nil fun hnil => by
      rw [State.freeSubReads_eq, ← hfree, hnil] at hn
      exact absurd hn (Nat.not_succ_le_zero _)
  unfold State.allocate
  split
  · next hnone =>
    have := lowest?_eq_none.1 hnone k
    rw [show o.translation.subReads[k] = o.sub k from rfl, State.freeSubs_state (hk ▸ List.mem_cons_self ..)] at this
    simp at this
  · next l hl =>
    refine State.issuedFor_of_allocated (s := o) (k := l) (i := i) (of_decide_eq_true (lowest?_spec hl).1) ?_ ?_ rfl j
    · rfl
    · rfl

theorem State.TablesSound.acceptRead {s : State} (h : s.TablesSound) {i : Fin 32} (hi : (s.parent i).state = .free)
    (r : URead) (hn : s.subReadsNeeded r ≤ s.freeSubReads) : (s.acceptRead i r).TablesSound := by
  unfold State.acceptRead
  unfold State.subReadsNeeded at hn
  split
  · next hclass => rw [hclass] at hn; exact h.acceptTranslated hi r hn
  · exact h.opened_complete hi (.refl _)
  · exact h.opened_complete hi ((report_reported _ _).trans (report_reported _ _))
  · exact h.opened_complete hi (raise_reported _ _)
  · next hclass => rw [hclass] at hn; exact h.acceptPass hi r hn

/-! ## Reset, and every event -/

theorem State.run_translation (s : State) (c : Command) : (s.run c).translation = s.translation := by
  have hwork : ∀ {w : State}, CommandWork s w → w.translation = s.translation := fun hw => by
    cases hw with
    | detach t => exact (raise_reported _ _).translation
    | mark v => exact (raise_reported _ _).translation
    | _ => rfl
  obtain ⟨w, code, data, hw, hrun⟩ | ⟨kind, t, d, ps, -, hrun⟩ := s.run_runsTo c
  · rw [hrun]; exact (State.completeWith_translation ..).trans (hwork hw)
  · rw [hrun]; rfl

theorem State.reset_parent (i : Fin 32) : State.reset.parent i = .reset := by
  simp [State.parent, State.reset, Translation.reset]

theorem State.reset_sourceList (src : Source) : State.reset.sourceList src = [] := by
  simp [State.sourceList, State.reset, Translation.reset]

theorem State.reset_issuedFor (i : Fin 32) : State.reset.translation.issuedFor i = 0 := by
  refine countTable_eq_zero.2 fun k => ?_
  simp [State.reset, Translation.reset, SubRead.reset]

theorem State.reset_tablesSound : State.reset.TablesSound := by
  refine ⟨⟨fun src => ?_, fun src i => ?_, List.nodup_nil, fun i => ?_⟩, fun i => ?_⟩
  · rw [show State.reset.translation.lists[src] = [] from State.reset_sourceList src]
    exact List.nodup_nil
  · rw [show State.reset.translation.lists[src] = [] from State.reset_sourceList src,
      show State.reset.translation.parents[i] = .reset from State.reset_parent i]
    exact iff_of_false List.not_mem_nil fun h => h.1 rfl
  · refine iff_of_false List.not_mem_nil fun h => ?_
    have hcomplete := h.1
    rw [show State.reset.translation.parents[i] = .reset from State.reset_parent i] at hcomplete
    cases hcomplete
  · rw [State.reset_issuedFor, show State.reset.translation.parents[i] = .reset from State.reset_parent i]
    exact ⟨rfl, iff_of_false nofun fun h => h rfl⟩

/-- The agreement of the tables survives everything that can happen. -/
theorem tables_stepClosed : StepClosed State.TablesSound where
  channel s c h := h.congr rfl
  pending s p h := h.congr rfl
  stray s w h := (raise_reported s _).tablesSound h
  forward s w h _ _ := h.congr ((State.noteWrite_translation ..).trans (report_reported (s.enqueue _) _).translation)
  hold s r b h := by
    unfold State.holdRead
    split
    · exact h
    · exact (report_reported s _).tablesSound h
  cycle s c p h _ := h.congr (s.cycleStart_translation c p)
  accept s i r h hi hn := h.acceptRead hi r hn
  stale s h := (report_reported s _).tablesSound h
  run s r c h _ := h.congr (State.run_translation ..)
  fetchFails s h _ := h.congr (State.completeWith_translation s.freeFetch none _ _)
  answer s k result words h hk := h.answer hk result words
  late s k h hk := by
    have hrep := report_reported s ⟨.lateArrivals, 1, (s.sub k).carrier, (s.sub k).trib⟩
    exact (hrep.tablesSound h).release (by rw [hrep.sub, hk]; decide)
  depart s i rest h hr := h.depart hr
  apply s ch h _ := h.congr (s.applyChange_translation ch _)
  expire s k h hk := h.expireSub hk
  abandon s k h hk := by
    have hrep := raise_reported s (.readAbandoned (s.sub k).carrier (s.sub k).trib k (s.sub k).address)
    exact (hrep.tablesSound h).release (by rw [hrep.sub, hk]; decide)
  tick s h := h.congr rfl
  reset s h := State.reset_tablesSound.congr rfl
  taken s q rest h _ := h.congr rfl

/-- Settles O58: the tables agree after every event, hence after every step. -/
theorem everyStepKeepsTranslationTables : Obligations.EveryStepKeepsTranslationTables := fun s t hl ha hstep =>
  tables_stepClosed.step s t ⟨hl, ha⟩ hstep

end Sys2Proof.Machine
end

section
/-! SUPPORT. The step, the queue of commands and the reset: no event touches the queue of waiting commands; hardware reset
leaves every block at its reset values. -/

namespace Sys2Proof.Machine

/-! ## The queue of waiting commands -/

theorem State.noteWrite_pending (s : State) (w : UWrite) : (s.noteWrite w).pending = s.pending := by
  unfold State.noteWrite
  split
  · exact (s.trackWrite_keepsControl w).pending
  · split
    · unfold State.handPost
      split
      · dsimp only
        split <;> rfl
      · exact s.raise_pending _
    · split
      · exact (s.handTake_keepsControl _).pending
      · rfl

theorem State.cycleStart_pending (s : State) (c : CarrierId) (p : BitVec 3) : (s.cycleStart c p).pending = s.pending :=
  (s.cycleStart_keeps c p).pending

theorem State.withCycleStart_pending (s : State) (r : URead) : (s.withCycleStart r).pending = s.pending := by
  unfold State.withCycleStart
  split
  · exact s.cycleStart_pending _ _
  · rfl

theorem State.offerRead_pending (s : State) (r : URead) (b : Bool) : (s.offerRead r b).1.pending = s.pending := by
  unfold State.offerRead
  split
  · exact (s.holdRead_keepsControl r b).pending
  · next i _ =>
    dsimp only
    split
    · exact ((s.withCycleStart r).acceptRead_keepsControl i r).pending.trans (s.withCycleStart_pending r)
    · exact ((s.withCycleStart r).holdRead_keepsControl r b).pending.trans (s.withCycleStart_pending r)

theorem State.offer_pending (s : State) (h : Held) : (s.offer h).1.pending = s.pending := by
  unfold State.offer
  split
  · exact s.offerRead_pending _ _
  · next w _ =>
    unfold State.offerWrite
    split
    · exact s.raise_pending _
    · split
      · exact (State.noteWrite_pending _ w).trans (s.forwardWrite_keepsControl w).pending
      · rfl

theorem State.offerAll_pending (s : State) (l : List Held) : (s.offerAll l).pending = s.pending := by
  induction l generalizing s with
  | nil => rfl
  | cons h rest ih =>
    have hoffer := s.offer_pending h
    unfold State.offerAll
    split
    · next t he => rw [he] at hoffer; exact (ih t).trans hoffer
    · next t he => rw [he] at hoffer; exact hoffer

theorem State.present_pending (s : State) (q : URequest) : (s.present q).pending = s.pending := by
  unfold State.present
  split
  · exact s.offerAll_pending _
  · rfl

theorem CommandWork.pending {s w : State} (h : CommandWork s w) : w.pending = s.pending := by
  cases h with
  | detach t => exact State.raise_pending ..
  | mark v => exact State.raise_pending ..
  | _ => rfl

theorem State.run_pending (s : State) (c : Command) : (s.run c).pending = s.pending := by
  obtain ⟨w, code, data, hw, hrun⟩ | ⟨kind, t, d, ps, -, hrun⟩ := s.run_runsTo c
  · rw [hrun]; exact (State.completeWith_pending ..).trans hw.pending
  · rw [hrun]; rfl

theorem State.underFetch_pending (s : State) (r : Record) (c : Command) : (s.underFetch r (·.run c)).pending = s.pending := by
  unfold State.underFetch
  split
  · exact State.run_pending ..
  · rfl

theorem State.takeResponse_pending (s : State) (tag : BitVec 16) (result : MemResult) (words : List Word) :
    (s.takeResponse tag result words).pending = s.pending := by
  have hstale : s.staleResponse.pending = s.pending := s.report_pending _
  unfold State.takeResponse State.fetchResponse State.subResponse
  split
  · exact hstale
  · split
    · split
      · exact hstale
      · split
        · exact State.run_pending ..
        · exact State.completeWith_pending ..
    · split
      · dsimp only
        split
        · exact hstale
        · split
          · exact hstale
          · exact (s.answer_keepsControl ..).pending
          · exact (s.lateArrival_keepsControl _).pending
      · exact hstale

theorem State.takeDeadline_pending (s : State) : s.takeDeadline.pending = s.pending := by
  unfold State.takeDeadline
  split
  · exact State.completeWith_pending ..
  · rfl

theorem State.takeFetchExpiry_pending (s : State) : s.takeFetchExpiry.pending = s.pending := by
  unfold State.takeFetchExpiry
  split
  · exact State.completeWith_pending ..
  · rfl

theorem State.takeExpiry_pending (s : State) (k : Fin 64) : (s.takeExpiry k).pending = s.pending := by
  unfold State.takeExpiry
  split
  · exact (s.expireSub_keepsControl k).pending
  · rfl

theorem State.takeAbandonment_pending (s : State) (k : Fin 64) : (s.takeAbandonment k).pending = s.pending := by
  unfold State.takeAbandonment
  split
  · exact (s.abandonSub_keepsControl k).pending
  · rfl

theorem State.takeReached_pending (s : State) : s.takeReached.pending = s.pending := by
  have fold : ∀ (l : List (Fin 64)) (s : State),
      (l.foldl (fun s k => (s.takeExpiry k).takeAbandonment k) s).pending = s.pending := by
    intro l
    induction l with
    | nil => exact fun _ => rfl
    | cons k l ih =>
      exact fun s => (ih _).trans ((State.takeAbandonment_pending _ k).trans (s.takeExpiry_pending k))
  exact (fold _ _).trans ((State.takeFetchExpiry_pending _).trans s.takeDeadline_pending)

theorem State.reoffer_pending (s : State) (due : Bool) :
    (if due then s.offerAll s.channel.waiting else s).pending = s.pending := by
  split
  · exact s.offerAll_pending _
  · rfl

/-- Settles O2: every row answers the state that its event leaves, and no event touches the queue. -/
theorem everyCommandKeepsQueue : Obligations.EveryCommandKeepsQueue := by
  intro i s
  cases i with
  | hardwareReset => exact ⟨_, rfl, rfl⟩
  | microsecondCountAdvance => exact ⟨s.takeReached.advanceCount, rfl, (State.advanceCount_pending _).trans s.takeReached_pending⟩
  | tributaryRegionWrite w => exact ⟨_, rfl, s.present_pending _⟩
  | postWordWrite w => exact ⟨_, rfl, s.present_pending _⟩
  | takeWordWrite w => exact ⟨_, rfl, s.present_pending _⟩
  | passWrite w => exact ⟨_, rfl, s.present_pending _⟩
  | strayWrite w => exact ⟨_, rfl, s.present_pending _⟩
  | carrierWindowRead r => exact ⟨_, rfl, s.present_pending _⟩
  | passRead r => exact ⟨_, rfl, s.present_pending _⟩
  | heldReadReoffer => exact ⟨_, rfl, s.reoffer_pending _⟩
  | heldWriteReoffer => exact ⟨_, rfl, s.reoffer_pending _⟩
  | mSideRequestTaken =>
    change ∃ t, execMSideRequestTaken s = .next t ∧ _
    unfold execMSideRequestTaken
    split
    · exact ⟨_, rfl, rfl⟩
    · refine ⟨_, rfl, ?_⟩
      split
      · unfold State.noteForwardLeft
        split <;> rfl
      · rfl
  | memoryResponse tag result words => exact ⟨_, rfl, s.takeResponse_pending tag result words⟩
  | responseDeparture =>
    change ∃ t, execResponseDeparture s = .next t ∧ _
    unfold execResponseDeparture
    split
    · next i _ _ => exact ⟨_, rfl, (s.depart_keepsControl i).pending⟩
    · exact ⟨_, rfl, rfl⟩
  | deadlineExpiry => exact ⟨_, rfl, s.takeDeadline_pending⟩
  | subReadExpiry k => exact ⟨_, rfl, s.takeExpiry_pending k⟩
  | abandonment k => exact ⟨_, rfl, s.takeAbandonment_pending k⟩
  | fetchExpiry => exact ⟨_, rfl, s.takeFetchExpiry_pending⟩
  | attach a b c d => exact ⟨_, rfl, s.underFetch_pending _ (.attach a b c d)⟩
  | detach a => exact ⟨_, rfl, s.underFetch_pending _ (.detach a)⟩
  | clearCounts a => exact ⟨_, rfl, s.underFetch_pending _ (.clearCounts a)⟩
  | place a b c d e => exact ⟨_, rfl, s.underFetch_pending _ (.place a b c d e)⟩
  | regroom a b c d e => exact ⟨_, rfl, s.underFetch_pending _ (.regroom a b c d e)⟩
  | unplace a b => exact ⟨_, rfl, s.underFetch_pending _ (.unplace a b)⟩
  | carrierOn a b => exact ⟨_, rfl, s.underFetch_pending _ (.carrierOn a b)⟩
  | carrierOff a => exact ⟨_, rfl, s.underFetch_pending _ (.carrierOff a)⟩
  | setLimits a => exact ⟨_, rfl, s.underFetch_pending _ (.setLimits a)⟩
  | setNotice a => exact ⟨_, rfl, s.underFetch_pending _ (.setNotice a)⟩
  | mark a => exact ⟨_, rfl, s.underFetch_pending _ (.mark a)⟩
  | queryTributary a => exact ⟨_, rfl, s.underFetch_pending _ (.queryTributary a)⟩
  | queryCarrier a b => exact ⟨_, rfl, s.underFetch_pending _ (.queryCarrier a b)⟩
  | setMonitor a => exact ⟨_, rfl, s.underFetch_pending _ (.setMonitor a)⟩
  | readMonitor a => exact ⟨_, rfl, s.underFetch_pending _ (.readMonitor a)⟩
  | lockMonitor a => exact ⟨_, rfl, s.underFetch_pending _ (.lockMonitor a)⟩
  | clearTables => exact ⟨_, rfl, s.underFetch_pending _ .clearTables⟩
  | badCode code => exact ⟨_, rfl, s.underFetch_pending _ _⟩

/-- Settles O1: the two cases of a step. -/
theorem stepExecutesFrontCommand : Obligations.StepExecutesFrontCommand := by
  refine ⟨fun s c rest h => ?_, fun s h => ?_⟩ <;> unfold step <;> rw [h]

/-! ## Reset -/

/-- The reset values are told by everything but the epoch, the channel, the outputs, the draws and the queue of commands. -/
theorem State.AtReset.congr {s t : State} (h : s.AtReset) (htrib : t.tributaries = s.tributaries)
    (hcarriers : t.carriers = s.carriers) (hchange : t.change = s.change) (htranslation : t.translation = s.translation)
    (hcount : t.response.microseconds = s.response.microseconds) (hfetch : t.response.fetch = s.response.fetch)
    (hprocessor : t.processor = s.processor) (hevents : t.events = s.events) (hmonitor : t.monitor = s.monitor)
    (hqueue : t.mQueue = s.mQueue) : t.AtReset := by
  obtain ⟨tributaries, carriers, positions, change, parents, subReads, lists, ready, microseconds, fetch, processor, events,
    kinds, monitor, mQueue⟩ := h
  unfold State.trib at tributaries
  unfold State.carrier at carriers positions
  unfold State.parent at parents
  unfold State.sub at subReads
  unfold State.sourceList at lists
  unfold State.counter at monitor
  constructor <;>
    simpa only [State.trib, State.carrier, State.parent, State.sub, State.sourceList, State.counter, htrib, hcarriers, hchange,
      htranslation, hcount, hfetch, hprocessor, hevents, hmonitor, hqueue]

theorem State.reset_sub (k : Fin 64) : State.reset.sub k = .reset := by
  simp [State.sub, State.reset, Translation.reset]

theorem State.reset_counter (k : Fin 8) : State.reset.counter k = .reset := by
  simp [State.counter, State.reset]

theorem State.reset_atReset : State.reset.AtReset where
  tributaries t := State.reset_trib t
  carriers c := by rw [State.reset_carrier]; exact ⟨rfl, rfl, rfl, rfl, rfl, rfl, rfl, rfl⟩
  positions c i := by rw [State.reset_carrier]; simp [Carrier.reset]
  change := rfl
  parents i := by rw [State.reset_parent]; rfl
  subReads k := by rw [State.reset_sub]; exact ⟨rfl, rfl⟩
  lists := State.reset_sourceList
  ready := rfl
  microseconds := rfl
  fetch := rfl
  processor := rfl
  events := ⟨rfl, rfl, rfl, rfl, rfl, rfl⟩
  kinds := by decide
  monitor k := State.reset_counter k
  mQueue := by decide

/-- Settles O3: reset spelled block by block, and what hardware reset keeps. -/
theorem hardwareResetRestoresEveryBlock : Obligations.HardwareResetRestoresEveryBlock := by
  refine ⟨State.reset_atReset, fun s => ⟨_, rfl, ?_, rfl, rfl, ?_, rfl, rfl⟩⟩
  · exact State.reset_atReset.congr rfl rfl rfl rfl rfl rfl rfl rfl rfl rfl
  · change (s.channel.acrossReset.reofferDue = true) ↔ _
    simp [Channel.acrossReset]

/-- Settles O59: each invariant at the reset values. -/
theorem resetStateIsSound : Obligations.ResetStateIsSound :=
  ⟨EventWriter.reset_sound, State.reset_processorSound, by decide, State.reset_carriersSound, State.reset_tributariesSound,
    State.reset_mapSound, State.reset_tablesSound⟩

end Sys2Proof.Machine
end

section
/-! SUPPORT. Forwarded writes (R43 to R50, R137, R141, R142, R146, R166): what the tracker, the post count and the take count
make of a write that finds the channel free. -/

namespace Sys2Proof.Machine

variable {s : State} {w : UWrite}

theorem State.noteWrite_of_pass (ht : region w.address ≠ .tributary) (hp : isPostWordWrite w = false)
    (hk : isTakeWordWrite w = false) : s.noteWrite w = s := by
  rw [State.noteWrite, if_neg ht, hp, hk]
  rfl

theorem State.noteWrite_of_tributary (ht : region w.address = .tributary) : s.noteWrite w = s.trackWrite w := if_pos ht

theorem State.noteWrite_of_post (ht : region w.address ≠ .tributary) (hp : isPostWordWrite w = true) :
    s.noteWrite w = s.handPost (writtenCount w) := by
  rw [State.noteWrite, if_neg ht, if_pos hp]

theorem State.noteWrite_of_take (ht : region w.address ≠ .tributary) (hp : isPostWordWrite w = false)
    (hk : isTakeWordWrite w = true) : s.noteWrite w = s.handTake (writtenCount w) := by
  rw [State.noteWrite, if_neg ht, hp, if_neg Bool.false_ne_true, if_pos hk]

theorem State.forwardWrite_reported (s : State) (w : UWrite) :
    Reported (s.enqueue [.write .forwarded w.source w.address w.data w.enables]) (s.forwardWrite w) := report_reported _ _

theorem State.forwardWrite_trib (s : State) (w : UWrite) (t : TribId) : (s.forwardWrite w).trib t = s.trib t :=
  (s.forwardWrite_reported w).trib t

/-- Settles O4: neither the tracker nor a count has to do with a pass write. -/
theorem passWriteForwarded : Obligations.PassWriteForwarded := by
  intro w s hwf hw hf
  obtain ⟨hwindow, htrib, hpost, htake⟩ := passWrite_wellFormed hwf
  change Host.Outcome.next (s.present (.write w)) = _
  rw [State.present_write hw hwindow hf, State.noteWrite_of_pass htrib hpost htake]
  rfl

/-! ## The ingress tracker -/

theorem Tributary.tracked_iff {tr : Tributary} :
    tr.tracked = true ↔ tr.state = .idle ∨ tr.state = .active ∨ tr.state = .silent := by
  simp [Tributary.tracked, or_assoc]

theorem State.trackWrite_of_untracked (h : (s.trib (tribOf w.address)).tracked = false) : s.trackWrite w = s := by
  unfold State.trackWrite
  dsimp only
  rw [h]
  rfl

theorem State.trackWrite_of_tracked (h : (s.trib (tribOf w.address)).tracked = true) :
    s.trackWrite w =
      match writeClass (s.trib (tribOf w.address)).width (slotOf w.address) (w.enables.getLsbD 15) with
      | .completion => s.completePage (tribOf w.address) (pageOf w.address)
      | .stray => s.straySlot (tribOf w.address)
      | .body => s
      | .partialLast => s := by
  unfold State.trackWrite
  exact if_pos h

theorem writeClass_of_stray {width slot : Nat} {flag : Bool} (h : width ≤ slot) : writeClass width slot flag = .stray :=
  if_pos h

theorem writeClass_of_body {width slot : Nat} {flag : Bool} (h : slot + 1 < width) : writeClass width slot flag = .body := by
  rw [writeClass, if_neg (by omega), if_neg (by omega)]

theorem writeClass_of_last {width slot : Nat} {flag : Bool} (h : slot + 1 = width) :
    writeClass width slot flag = if flag then .completion else .partialLast := by
  rw [writeClass, if_neg (by omega), if_pos h]

/-- Body writes, partial last writes and writes to an untracked tributary are let pass (R44, R45). -/
theorem State.trackWrite_of_no_effect
    (h : (s.trib (tribOf w.address)).tracked = false ∨ slotOf w.address + 1 < (s.trib (tribOf w.address)).width ∨
      (slotOf w.address + 1 = (s.trib (tribOf w.address)).width ∧ w.enables.getLsbD 15 = false)) : s.trackWrite w = s := by
  cases ht : (s.trib (tribOf w.address)).tracked with
  | false => exact State.trackWrite_of_untracked ht
  | true =>
    rw [State.trackWrite_of_tracked ht]
    rcases h with h | h | ⟨hlast, hflag⟩
    · rw [ht] at h; cases h
    · rw [writeClass_of_body h]
    · rw [writeClass_of_last hlast, hflag]; rfl

theorem State.trackWrite_of_stray (ht : (s.trib (tribOf w.address)).tracked = true)
    (h : (s.trib (tribOf w.address)).width ≤ slotOf w.address) : s.trackWrite w = s.straySlot (tribOf w.address) := by
  rw [State.trackWrite_of_tracked ht, writeClass_of_stray h]

theorem State.trackWrite_of_completion (ht : (s.trib (tribOf w.address)).tracked = true)
    (h : slotOf w.address + 1 = (s.trib (tribOf w.address)).width) (hflag : w.enables.getLsbD 15 = true) :
    s.trackWrite w = s.completePage (tribOf w.address) (pageOf w.address) := by
  rw [State.trackWrite_of_tracked ht, writeClass_of_last h, hflag]
  rfl

/-- A tributary-region write that finds the channel free and the queue open goes to the tracker behind its forwarding. -/
theorem exec_tributaryRegionWrite (hwf : (Instr.tributaryRegionWrite w).wellFormed = true) (hw : s.channel.waiting = [])
    (hf : s.forwardedWrites < 32) :
    exec (.tributaryRegionWrite w) s = .next { (s.forwardWrite w).trackWrite w with channel := ⟨[], false⟩ } := by
  have hr := tributaryRegionWrite_wellFormed hwf
  change Host.Outcome.next (s.present (.write w)) = _
  rw [State.present_write hw (by rw [hr]; decide) hf, State.noteWrite_of_tributary hr]

/-- Settles O5: the writes that the tracker lets pass, and the stray slot write. -/
theorem tributaryWriteWithoutCompletion : Obligations.TributaryWriteWithoutCompletion := by
  intro w s hwf hw hf t tr tracked
  rw [exec_tributaryRegionWrite hwf hw hf]
  have htracked : tracked ↔ ((s.forwardWrite w).trib (tribOf w.address)).tracked = true := by
    rw [State.forwardWrite_trib]; exact Tributary.tracked_iff.symm
  have hsame : (s.forwardWrite w).trib (tribOf w.address) = tr := s.forwardWrite_trib w _
  refine ⟨fun h => ?_, fun h hstray => ?_⟩
  · rw [State.trackWrite_of_no_effect]
    rw [htracked, Bool.not_eq_true] at h
    rw [hsame] at h ⊢
    exact h
  · rw [State.trackWrite_of_stray (htracked.1 h) (by rw [hsame]; exact hstray), State.straySlot, hsame]
    rfl

/-- The jump of a completion, as a number (R46). -/
theorem ingressJump_eq (page : BitVec 3) (iw : BitVec 16) :
    ingressJump page iw = BitVec.ofNat 3 ((page.toNat + 8 - iw.toNat % 8) % 8) := by
  unfold ingressJump
  bv_omega

theorem iwAfter_eq (page : BitVec 3) (iw : BitVec 16) :
    iwAfter page iw = BitVec.ofNat 16 (iw.toNat + (page.toNat + 8 - iw.toNat % 8) % 8 + 1) := by
  rw [iwAfter, ingressJump_eq]
  bv_omega

theorem ingressJump_eq_zero (page : BitVec 3) (iw : BitVec 16) :
    ingressJump page iw = 0 ↔ (page.toNat + 8 - iw.toNat % 8) % 8 = 0 := by
  rw [ingressJump_eq]
  constructor <;> intro h <;> bv_omega

/-- Settles O6: a page completion on a SILENT tributary, and on another without and with a jump. -/
theorem pageCompletionAdvancesIngressCount : Obligations.PageCompletionAdvancesIngressCount := by
  intro w s hwf hw hf t tr p j iw hstate hlast hflag
  have hsame : (s.forwardWrite w).trib (tribOf w.address) = tr := s.forwardWrite_trib w _
  have htracked : ((s.forwardWrite w).trib (tribOf w.address)).tracked = true := by
    rw [hsame]; exact Tributary.tracked_iff.2 hstate
  have hiw : iwAfter p tr.iw = iw := iwAfter_eq p tr.iw
  have hjump : ingressJump p tr.iw = BitVec.ofNat 3 j := ingressJump_eq p tr.iw
  rw [exec_tributaryRegionWrite hwf hw hf,
    State.trackWrite_of_completion htracked (by rw [hsame]; exact hlast) hflag, State.completePage]
  dsimp only
  rw [hsame]
  refine ⟨fun hsilent => ?_, fun hlive hj => ?_, fun hlive hj => ?_⟩
  · rw [if_pos hsilent, Tributary.completed, if_pos hsilent, hiw]
  · have hzero : ingressJump p tr.iw = 0 := (ingressJump_eq_zero p tr.iw).2 hj
    rw [if_neg hlive, if_pos hzero, Tributary.completed, if_neg hlive, if_pos hzero, hiw]
  · have hnonzero : ingressJump p tr.iw ≠ 0 := mt (ingressJump_eq_zero p tr.iw).1 hj
    rw [if_neg hlive, if_neg hnonzero, Tributary.completed, if_neg hlive, if_neg hnonzero, hiw, hjump]
    rfl

/-! ## The post count and the take count -/

theorem exec_postWordWrite (hwf : (Instr.postWordWrite w).wellFormed = true) (hw : s.channel.waiting = [])
    (hf : s.forwardedWrites < 32) :
    exec (.postWordWrite w) s =
      .next { (s.forwardWrite w).handPost (writtenCount w) with channel := ⟨[], false⟩ } := by
  obtain ⟨hwindow, htrib, hpost⟩ := postWordWrite_wellFormed hwf
  change Host.Outcome.next (s.present (.write w)) = _
  rw [State.present_write hw hwindow hf, State.noteWrite_of_post htrib hpost]

theorem exec_takeWordWrite (hwf : (Instr.takeWordWrite w).wellFormed = true) (hw : s.channel.waiting = [])
    (hf : s.forwardedWrites < 32) :
    exec (.takeWordWrite w) s =
      .next { (s.forwardWrite w).handTake (writtenCount w) with channel := ⟨[], false⟩ } := by
  obtain ⟨hwindow, htrib, hpost, htake⟩ := takeWordWrite_wellFormed hwf
  change Host.Outcome.next (s.present (.write w)) = _
  rw [State.present_write hw hwindow hf, State.noteWrite_of_take htrib hpost htake]

theorem Processor.takesPost_iff {p : Processor} {count : BitVec 16} :
    p.takesPost count = true ↔ (count - p.done).toNat ≤ 256 ∧ (p.phase = .idle ∨ 1 ≤ (count - p.done).toNat) := by
  simp [Processor.takesPost]

theorem State.handPost_of_rejected {count : BitVec 16} (h : ¬s.processor.takesPost count = true) :
    s.handPost count = s.raise (.postRejected count s.processor.done s.processor.post) := if_neg h

theorem State.handPost_of_taken {count : BitVec 16} (h : s.processor.takesPost count = true) :
    s.handPost count =
      if s.processor.phase = .idle ∧ count ≠ s.processor.done then
        { s with processor := { s.processor with post := count } }.issueFetch
      else { s with processor := { s.processor with post := count } } := if_pos h

/-- Settles O7: a post count that is rejected, one that starts the processor, and one that is only taken. -/
theorem postCountTakenOrRejected : Obligations.PostCountTakenOrRejected := by
  intro w s hwf hw hf f count p ahead taken
  have hprocessor : (s.forwardWrite w).processor = p := (s.forwardWrite_keepsControl w).processor
  have hresponse : (s.forwardWrite w).response = s.response := (s.forwardWrite_keepsControl w).response
  have htaken : (s.forwardWrite w).processor.takesPost (writtenCount w) = true ↔ taken := by
    rw [hprocessor]; exact Processor.takesPost_iff
  rw [exec_postWordWrite hwf hw hf]
  refine ⟨fun h => ?_, fun h hidle => ?_, fun h hidle => ?_⟩
  · rw [State.handPost_of_rejected (mt htaken.1 h), hprocessor]
    rfl
  · rw [State.handPost_of_taken (htaken.2 h), hprocessor,
      if_pos (show p.phase = .idle ∧ writtenCount w ≠ p.done from hidle)]
    unfold State.issueFetch
    dsimp only
    rw [hresponse]
    rfl
  · rw [State.handPost_of_taken (htaken.2 h), hprocessor,
      if_neg (show ¬(p.phase = .idle ∧ writtenCount w ≠ p.done) from hidle)]
    rfl

theorem State.handTake_of_taken {count : BitVec 16}
    (h : (count - s.events.taken).toNat ≤ (s.events.written - s.events.taken).toNat) :
    s.handTake count =
      { s with
        events := ({ s.events with
          taken := count
          shadow := s.events.shadow.drop (count - s.events.taken).toNat } : EventWriter).withNotice } := if_pos h

theorem State.handTake_of_ignored {count : BitVec 16}
    (h : ¬(count - s.events.taken).toNat ≤ (s.events.written - s.events.taken).toNat) : s.handTake count = s := if_neg h

/-- Settles O8: a take count within the untaken records, and one beyond them. -/
theorem takeCountTakenOrIgnored : Obligations.TakeCountTakenOrIgnored := by
  intro w s hwf hw hf f count a u
  rw [exec_takeWordWrite hwf hw hf]
  refine ⟨fun h => ?_, fun h => ?_⟩
  · rw [State.handTake_of_taken (s := s.forwardWrite w) (count := writtenCount w) h]
    exact ⟨_, rfl, rfl, rfl, noticeLevel_iff _ _⟩
  · rw [State.handTake_of_ignored (s := s.forwardWrite w) (count := writtenCount w) (Nat.not_le.2 h)]

end Sys2Proof.Machine
end

section
/-! SUPPORT. Reads at a free channel (R59, R60, R97, R98, R104, R106): when a request is held, and what each class of read that is
accepted leaves. -/

namespace Sys2Proof.Machine

variable {s : State} {r : URead}

/-! ## Classes -/

theorem State.classOf_of_outside (h : region r.address ≠ .window) : s.classOf r = .pass := by
  simp [State.classOf, URead.inWindow, h]

theorem State.classOf_of_malformed (h : region r.address = .window) (hf : wellFormedRead r.address r.length = false) :
    s.classOf r = .malformed := by
  simp [State.classOf, URead.inWindow, URead.wellFormed, h, hf]

theorem State.classOf_of_overhead (h : region r.address = .window) (hf : wellFormedRead r.address r.length = true)
    (hp : 240 ≤ windowPosition r.address) : s.classOf r = .overhead := by
  simp [State.classOf, URead.inWindow, URead.wellFormed, h, hf, hp]

theorem State.classOf_of_payload (h : region r.address = .window) (hf : wellFormedRead r.address r.length = true)
    (hp : windowPosition r.address < 240) :
    s.classOf r = if (s.carrier (windowCarrier r.address)).on then .translated else .offCarrier := by
  have : ¬240 ≤ windowPosition r.address := by omega
  simp [State.classOf, URead.inWindow, URead.wellFormed, h, hf, this]

/-- How many sub-read entries a read needs: one outside the carrier window; one for each piece of a payload read of an ON
carrier; none otherwise (R98). -/
theorem State.subReadsNeeded_eq (s : State) (r : URead) :
    s.subReadsNeeded r =
      if region r.address ≠ .window then 1
      else if wellFormedRead r.address r.length = true ∧ windowPosition r.address < 240 ∧
          (s.carrier (windowCarrier r.address)).on = true then (cutPieces 0 (s.wordKinds r)).length
      else 0 := by
  unfold State.subReadsNeeded
  by_cases hw : region r.address = .window
  · rw [if_neg (not_not.2 hw)]
    cases hf : wellFormedRead r.address r.length with
    | false => rw [State.classOf_of_malformed hw hf]; simp
    | true =>
      by_cases hp : windowPosition r.address < 240
      · rw [State.classOf_of_payload hw hf hp]
        by_cases hon : (s.carrier (windowCarrier r.address)).on = true
        · rw [if_pos hon, if_pos ⟨rfl, hp, hon⟩]
        · rw [if_neg hon, if_neg fun hall => hon hall.2.2]
      · rw [State.classOf_of_overhead hw hf (Nat.not_lt.1 hp), if_neg fun hall => hp hall.2.1]
  · rw [if_pos hw, State.classOf_of_outside hw]

theorem State.whenOffered_of_not_called (h : ¬CallsForCycleStart s r) : s.whenOffered r = s := if_neg h

theorem State.whenOffered_carrier_on (s : State) (r : URead) (c : CarrierId) :
    ((s.whenOffered r).carrier c).on = (s.carrier c).on := (s.whenOffered_keeps r).on c

/-! ## A read at a free channel -/

theorem State.exists_freeParent? (h : ∃ i : Fin 32, (s.parent i).state = .free) : ∃ i, s.freeParent? = some i := by
  cases hf : s.freeParent? with
  | some i => exact ⟨i, rfl⟩
  | none =>
    obtain ⟨i, hi⟩ := h
    have := lowest?_eq_none.1 hf i
    simp only [decide_eq_false_iff_not] at this
    exact absurd hi this

theorem State.offerRead_of_no_parent (h : ∀ i : Fin 32, (s.parent i).state ≠ .free) (b : Bool) :
    s.offerRead r b = (if b then s else s.waitReported r, false) := by
  unfold State.offerRead
  rw [State.freeParent?_eq_none h]
  dsimp only
  unfold State.holdRead State.waitReported
  simp only [inWindow_iff]

theorem State.present_read_held (hw : s.channel.waiting = []) {i : Fin 32} (hi : s.freeParent? = some i)
    (hn : (s.whenOffered r).freeSubs.length < (s.whenOffered r).subReadsNeeded r) :
    s.present (.read r) = ((s.whenOffered r).waitReported r).withChannel ⟨[⟨.read r, true⟩], false⟩ := by
  rw [State.present_read hw, State.offerRead_spec s r false i hi, if_neg (Nat.not_le.2 hn)]
  rfl

theorem State.present_read_taken (hw : s.channel.waiting = []) {i : Fin 32} (hi : (s.parent i).state = .free)
    (hi' : ∀ j : Fin 32, j < i → (s.parent j).state ≠ .free)
    (hn : (s.whenOffered r).subReadsNeeded r ≤ (s.whenOffered r).freeSubs.length) :
    s.present (.read r) = ((s.whenOffered r).acceptRead i r).withChannel ⟨[], false⟩ := by
  rw [State.present_read hw, State.offerRead_spec s r false i (State.freeParent?_eq_some hi hi'), if_pos hn]

theorem State.freeSubs_eq_nil (h : ∀ k : Fin 64, (s.sub k).state ≠ .free) : s.freeSubs = [] :=
  List.filter_eq_nil_iff.2 fun k _ => by simpa using h k

theorem State.waitReported_of_window (h : region r.address = .window) :
    s.waitReported r = s.report ⟨.acceptWaits, 1, some (windowCarrier r.address), none⟩ := by
  rw [State.waitReported, if_pos h]

theorem State.waitReported_of_outside (h : region r.address ≠ .window) :
    s.waitReported r = s.report ⟨.acceptWaits, 1, none, none⟩ := by
  rw [State.waitReported, if_neg h]

theorem not_calls_of_outside (h : region r.address ≠ .window) : ¬CallsForCycleStart s r := fun hc => h hc.1

/-- Settles O10: a request behind another, a write at a full queue, and the three ways a read finds too few entries. -/
theorem requestHeldOnChannel : Obligations.RequestHeldOnChannel := by
  intro q s
  rw [exec_requestRow]
  refine ⟨fun h rest hw => ?_, fun w hq hr hw hf => ?_, fun r hq hw hnone => ?_, fun r hq hw hsome hr hsub => ?_,
    fun r hq hw hsome hr hwf hp hon hn => ?_⟩
  · rw [State.present, hw]
  · subst hq
    rw [State.present, hw]
    simp [State.offerAll, State.offer, State.offerWrite, hr, Nat.not_lt.2 hf, Held.held]
  · subst hq
    rw [State.present_read hw, State.offerRead_of_no_parent hnone]
    rfl
  · subst hq
    obtain ⟨i, hi⟩ := State.exists_freeParent? hsome
    have hsame : s.whenOffered r = s := State.whenOffered_of_not_called (not_calls_of_outside hr)
    rw [State.present_read_held hw hi, hsame, State.waitReported_of_outside hr]
    · rfl
    · rw [hsame, State.freeSubs_eq_nil hsub, State.subReadsNeeded_eq, if_pos hr]
      exact Nat.zero_lt_one
  · subst hq
    obtain ⟨i, hi⟩ := State.exists_freeParent? hsome
    rw [State.present_read_held hw hi, State.waitReported_of_window hr]
    · rfl
    · rw [State.subReadsNeeded_eq, if_neg (not_not.2 hr),
        if_pos ⟨hwf, hp, by rw [State.whenOffered_carrier_on]; exact hon⟩]
      exact hn

/-! ## Reads that are answered at once -/

theorem State.acceptRead_of_class {i : Fin 32} :
    s.acceptRead i r = match s.classOf r with
      | .translated => s.acceptTranslated i r
      | .overhead => s.acceptOverhead i r
      | .offCarrier => s.acceptOffCarrier i r
      | .malformed => s.acceptMalformed i r
      | .pass => s.acceptPass i r := rfl

theorem State.subReadsNeeded_of_window (h : region r.address = .window)
    (hn : ¬(wellFormedRead r.address r.length = true ∧ windowPosition r.address < 240 ∧
      (s.carrier (windowCarrier r.address)).on = true)) : s.subReadsNeeded r = 0 := by
  rw [State.subReadsNeeded_eq, if_neg (not_not.2 h), if_neg hn]

/-- A read taken into a FREE parent entry is accepted, whatever is done beside the parents, the lists, the carriers and the
command processor (R94, R95, R108). -/
theorem State.accepts_of_opened {i : Fin 32} {cls : ReadClass} {c : Option CarrierId} {words : List (Option Word)}
    {status : Status} {n : Nat} {t : State} (hl : s.translation.ListsSound) (hi : (s.parent i).state = .free)
    (hqueues : KeepsQueues (s.openParent i r cls c words status n) t)
    (hcontrol : KeepsControl (s.openParent i r cls c words status n) t) (houtputs : t.outputs = s.outputs) :
    (t.withChannel ⟨[], false⟩).parent i = parentEntry r cls c words status n ∧
      Accepts s (t.withChannel ⟨[], false⟩) r i := by
  obtain ⟨hself, hother, hlist, hlists, hready, -⟩ := s.openParent_spec i r cls c words status n hl hi
  have hsourceList : ∀ src, (t.withChannel ⟨[], false⟩).sourceList src =
      (s.openParent i r cls c words status n).sourceList src := fun src => by
    unfold State.sourceList; exact congrArg (·[src]) hqueues.lists
  have hparent : ∀ j, (t.withChannel ⟨[], false⟩).parent j = (s.openParent i r cls c words status n).parent j :=
    hqueues.parent
  refine ⟨(hparent i).trans hself, fun j hj => (hparent j).trans (hother j hj), (hsourceList _).trans hlist,
    fun src hs => (hsourceList src).trans (hlists src hs), ?_, hcontrol.carriers, hcontrol.change, hcontrol.processor,
    hcontrol.response, rfl, houtputs, hcontrol.pending⟩
  rw [hparent]
  exact hqueues.ready.trans hready

/-- A read that is answered at once: its entry, its acceptance, and the tables that it does not touch. -/
theorem State.accepts_at_once {i : Fin 32} {cls : ReadClass} {c : Option CarrierId} {words : List (Option Word)}
    {status : Status} {n : Nat} {t : State} (hl : s.translation.ListsSound) (hi : (s.parent i).state = .free)
    (hrep : Reported (s.openParent i r cls c words status n) t) :
    (t.withChannel ⟨[], false⟩).parent i = parentEntry r cls c words status n ∧
      Accepts s (t.withChannel ⟨[], false⟩) r i ∧
      (t.withChannel ⟨[], false⟩).translation.subReads = s.translation.subReads ∧
      (t.withChannel ⟨[], false⟩).tributaries = s.tributaries := by
  obtain ⟨hparent, haccepts⟩ := State.accepts_of_opened hl hi (.of_translation hrep.translation) hrep.keepsControl hrep.outputs
  exact ⟨hparent, haccepts, hrep.subReads, hrep.tributaries⟩

/-- Settles O11: the carrier is OFF, so there is no cycle start, no sub-read, and one fill. -/
theorem offCarrierReadFilled : Obligations.OffCarrierReadFilled := by
  intro r s i hw hl hr hwf hp hoff hi hi'
  have hnot : ¬(s.carrier (windowCarrier r.address)).on = true := Bool.eq_false_iff.1 hoff
  have hsame : s.whenOffered r = s := State.whenOffered_of_not_called fun ⟨_, _, hon, _⟩ => hnot hon
  have hneeded : s.subReadsNeeded r = 0 := State.subReadsNeeded_of_window hr fun ⟨_, _, hon⟩ => hnot hon
  have hpresent := State.present_read_taken (r := r) hw hi hi' (by rw [hsame, hneeded]; exact Nat.zero_le _)
  have hclass : s.classOf r = .offCarrier := by rw [State.classOf_of_payload hr hwf hp, if_neg hnot]
  rw [hsame, State.acceptRead_of_class, hclass] at hpresent
  have hrep : Reported (s.openParent i r .offCarrier (some (windowCarrier r.address))
      (List.replicate r.length.toNat (some (fillWord s.processor.limits.unassignedFill))) .ok 0) (s.acceptOffCarrier i r) :=
    (report_reported _ _).trans (report_reported _ _)
  obtain ⟨hparent, haccepts, hsub, htrib⟩ := State.accepts_at_once hl hi hrep
  exact ⟨_, congrArg Host.Outcome.next hpresent, hparent, haccepts, hsub, htrib,
    .of_same (State.report_congr _ (State.report_congr _ (State.openParent_sameForReports ..))) _⟩

/-- Settles O13: a malformed read takes no cycle start and no sub-read, and raises its event. -/
theorem malformedReadAnsweredWithError : Obligations.MalformedReadAnsweredWithError := by
  intro r s i hw hl hr hwf hi hi'
  have hnot : ¬wellFormedRead r.address r.length = true := Bool.eq_false_iff.1 hwf
  have hsame : s.whenOffered r = s := State.whenOffered_of_not_called fun ⟨_, hform, _⟩ => hnot hform
  have hneeded : s.subReadsNeeded r = 0 := State.subReadsNeeded_of_window hr fun ⟨hform, _⟩ => hnot hform
  have hpresent := State.present_read_taken (r := r) hw hi hi' (by rw [hsame, hneeded]; exact Nat.zero_le _)
  rw [hsame, State.acceptRead_of_class, State.classOf_of_malformed hr hwf] at hpresent
  have hrep : Reported (s.openParent i r .malformed (some (windowCarrier r.address)) [] .error 0) (s.acceptMalformed i r) :=
    raise_reported _ _
  obtain ⟨hparent, haccepts, hsub, htrib⟩ := State.accepts_at_once hl hi hrep
  exact ⟨_, congrArg Host.Outcome.next hpresent, hparent, haccepts, hsub, htrib,
    .of_same (State.raise_congr _ (State.openParent_sameForReports ..)) _⟩

/-! ## Overhead words -/

/-- A well-formed read does not leave its carrier's page: its positions lie below 256 (R93). -/
theorem position_lt_of_wellFormed {a : Addr} {length : Byte} (h : wellFormedRead a length = true) {n : Nat}
    (hn : n < length.toNat) : windowPosition a + n < 256 := by
  simp only [wellFormedRead, Bool.and_eq_true, decide_eq_true_eq, beq_iff_eq] at h
  obtain ⟨⟨⟨-, -⟩, -⟩, hend⟩ := h
  unfold windowPosition
  omega

/-- The code of an indication byte at a position, 0 beyond the last. -/
def shownCode (v : Vector Indication 240) (position : Nat) : Byte :=
  match v[position]? with
  | some i => i.code
  | none => 0

theorem indicationCodes_eq {v : Vector Indication 240} {m : Nat} (hm : m ≤ 224) :
    ((v.toList.drop m).take 16).map Indication.code = (List.range 16).map fun j => shownCode v (m + j) := by
  refine List.ext_getElem (by simp; omega) fun j h1 h2 => ?_
  have hj : m + j < 240 := by
    simp only [List.length_map, List.length_range] at h2
    omega
  simp [shownCode, hj]

theorem overheadWord_of_position {k : Carrier} {n : Nat} (hlo : 240 ≤ n) (hhi : n < 256) :
    overheadWord k n = wordOfBytes (if n = 240 then overheadBytes k
      else (List.range 16).map fun j => shownCode k.indications (16 * (n - 241) + j)) := by
  unfold overheadWord
  split
  · rfl
  · rw [indicationCodes_eq (by omega)]

/-- Settles O12: the acceptance after any cycle start, and its words read off the record and the bytes. -/
theorem overheadReadAnswered : Obligations.OverheadReadAnswered := by
  intro r s i hw hl hr hwf hp hi hi' u k image shown word
  have hkeeps := s.whenOffered_keeps r
  have hneeded : u.subReadsNeeded r = 0 := State.subReadsNeeded_of_window hr fun hall => by omega
  have hpresent := State.present_read_taken (r := r) hw hi hi' (by rw [hneeded]; exact Nat.zero_le _)
  rw [State.acceptRead_of_class, State.classOf_of_overhead hr hwf hp] at hpresent
  have hul : u.translation.ListsSound := hkeeps.translation ▸ hl
  have hui : (u.parent i).state = .free := by unfold State.parent; rw [hkeeps.translation]; exact hi
  obtain ⟨hparent, haccepts, hsub, htrib⟩ := State.accepts_at_once hul hui
    (.refl (s := (u.acceptOverhead i r)) : Reported (u.openParent i r .overhead (some (windowCarrier r.address))
      (r.positions.map fun g => some (overheadWord k g)) .ok 0) _)
  refine ⟨_, congrArg Host.Outcome.next hpresent, hparent.trans ?_, haccepts, hkeeps.translation,
    hsub.trans (congrArg Translation.subReads hkeeps.translation), htrib, .of_same (State.openParent_sameForReports ..) _⟩
  have hshown : ∀ n, shownCode k.indications n = shown n := fun n => by
    unfold shownCode shown
    rcases k.indications[n]? with _ | (_ | _ | _ | _ | _ | _ | _ | _) <;> rfl
  have himage : overheadBytes k = image := by
    unfold overheadBytes pageByte image
    cases k.page <;> rfl
  have hwords : (r.positions.map fun g => some (overheadWord k g)) =
      (List.range r.length.toNat).map fun n => some (word (windowPosition r.address + n)) := by
    rw [URead.positions, List.map_map]
    refine List.map_congr_left fun n hn => ?_
    have hlt := position_lt_of_wellFormed hwf (List.mem_range.1 hn)
    dsimp only [Function.comp]
    rw [overheadWord_of_position (by omega) hlt, himage]
    simp only [hshown]
    rfl
  rw [hwords]
  rfl

/-! ## PASS reads -/

/-- Settles O14: one parent entry, one sub-read entry, the read queued, then its occurrence. -/
theorem passReadForwarded : Obligations.PassReadForwarded := by
  intro r s i k hw hl hr hi hi' hk hk' generation queued
  have hsame : s.whenOffered r = s := State.whenOffered_of_not_called (not_calls_of_outside hr)
  have hneeded : s.subReadsNeeded r = 1 := by rw [State.subReadsNeeded_eq, if_pos hr]
  have hpresent := State.present_read_taken (r := r) hw hi hi' (by
    rw [hsame, hneeded, ← State.freeSubReads_eq]; exact State.freeSubReads_pos hk)
  rw [hsame, State.acceptRead_of_class, State.classOf_of_outside hr] at hpresent
  generalize ho : s.openParent i r .pass none
    (if r.wellFormed then List.replicate r.length.toNat none else []) .ok 1 = o
  have hosub : o.translation.subReads = s.translation.subReads := ho ▸ rfl
  have hsubs : ∀ l, o.sub l = s.sub l := fun l => by unfold State.sub; rw [hosub]
  have hsameReports : SameForReports s o := ho ▸ State.openParent_sameForReports ..
  have haccept : s.acceptPass i r = (o.allocate i 0 r.length.toNat none none r.address .forwarded).report
      ⟨.passReads, 1, none, none⟩ := by rw [← ho]; rfl
  have hallocate := State.allocate_lowest (s := o) (k := k) (by rw [hsubs]; exact hk)
    (fun j hj => by rw [hsubs]; exact hk' j hj) i 0 r.length.toNat none none r.address .forwarded
  have hresponse : o.response = s.response := ho ▸ rfl
  have hprocessor : o.processor = s.processor := ho ▸ rfl
  rw [hsubs k, hresponse, hprocessor, BitVec.ofNat_toNat, BitVec.setWidth_eq] at hallocate
  have hrep := report_reported (o.allocate i 0 r.length.toNat none none r.address .forwarded) ⟨.passReads, 1, none, none⟩
  have hqueues := (o.allocate_keepsQueues i 0 r.length.toNat none none r.address .forwarded).trans
    (.of_translation hrep.translation)
  have hcontrol := (o.allocate_keepsControl i 0 r.length.toNat none none r.address .forwarded).trans hrep.keepsControl
  have houtputs : (s.acceptPass i r).outputs = s.outputs := by
    rw [haccept, hrep.outputs, hallocate, ← ho]
    rfl
  rw [← haccept, ← ho] at hqueues hcontrol
  obtain ⟨hparent, haccepts⟩ := State.accepts_of_opened hl hi hqueues hcontrol houtputs
  refine ⟨_, congrArg Host.Outcome.next hpresent, hparent, ?_, fun l hlk => ?_, haccepts, ?_, ?_⟩
  · rw [State.withChannel_sub, haccept, hrep.sub, hallocate, State.enqueue_sub, State.sub_setSub_self]
  · rw [State.withChannel_sub, haccept, hrep.sub, hallocate, State.enqueue_sub, State.sub_setSub_ne _ _ _ _ hlk, hsubs]
  · rw [State.withChannel_tributaries, haccept, hrep.tributaries, hallocate, ← ho]
    rfl
  · rw [haccept, hallocate]
    refine .of_same (State.report_congr _ ?_) _
    exact ⟨hsameReports.events, hsameReports.monitor, hsameReports.draws,
      congrArg (fun q => q ++ _) hsameReports.mQueue, hsameReports.microseconds⟩

end Sys2Proof.Machine
end

section
/-! SUPPORT. The cut of a TRANSLATED read (R4, R100 to R103): its pieces, and what the acceptance of the read leaves. -/

namespace Sys2Proof.Machine

/-! ## Pieces -/

/-- A read word joins the next when that is the next slot of its tributary and begins no block of 8 slots (R4). -/
theorem joinsNext_iff {t : TribId} {slot : Nat} {rest : List WordKind} :
    joinsNext t slot rest = true ↔
      (slot + 1) % 8 ≠ 0 ∧ ∃ page rest', rest = .read t (slot + 1) page :: rest' := by
  unfold joinsNext
  split
  · simp only [Bool.and_eq_true, beq_iff_eq, bne_iff_ne, List.cons.injEq, WordKind.read.injEq]
    constructor
    · rintro ⟨⟨rfl, rfl⟩, hblock⟩
      exact ⟨hblock, _, _, ⟨rfl, rfl, rfl⟩, rfl⟩
    · rintro ⟨hblock, _, _, ⟨rfl, rfl, rfl⟩, rfl⟩
      exact ⟨⟨rfl, rfl⟩, hblock⟩
  · next h =>
    constructor
    · nofun
    · rintro ⟨-, page, rest', rfl⟩
      exact absurd rfl (h _ _ _ _)

theorem cutPieces_unassigned {k : Nat} {rest : List WordKind} :
    cutPieces k (.unassigned :: rest) = cutPieces (k + 1) rest := rfl

theorem cutPieces_alarm {k : Nat} {t : TribId} {rest : List WordKind} :
    cutPieces k (.alarm t :: rest) = cutPieces (k + 1) rest := rfl

theorem cutPieces_joined {k : Nat} {t : TribId} {slot : Nat} {page : BitVec 3} {rest : List WordKind} {p : Piece}
    {ps : List Piece} (hj : joinsNext t slot rest = true) (hp : cutPieces (k + 1) rest = p :: ps) :
    cutPieces k (.read t slot page :: rest) = { p with first := k, slot := slot, length := p.length + 1 } :: ps := by
  rw [cutPieces, hj, hp]

theorem cutPieces_alone {k : Nat} {t : TribId} {slot : Nat} {page : BitVec 3} {rest : List WordKind}
    (hj : joinsNext t slot rest = false) :
    cutPieces k (.read t slot page :: rest) = ⟨t, k, slot, page, 1⟩ :: cutPieces (k + 1) rest := by
  rw [cutPieces, hj]

/-- All positions of one tributary show one page. -/
def OnePage (kinds : List WordKind) : Prop :=
  ∀ t slot slot' page page', .read t slot page ∈ kinds → .read t slot' page' ∈ kinds → page = page'

theorem OnePage.tail {x : WordKind} {rest : List WordKind} (h : OnePage (x :: rest)) : OnePage rest :=
  fun t slot slot' page page' h1 h2 => h t slot slot' page page' (List.mem_cons_of_mem _ h1) (List.mem_cons_of_mem _ h2)

/-- The first piece of a list that begins with a read word begins with that word (R101). -/
theorem cutPieces_head (kinds : List WordKind) : ∀ {k : Nat} {t : TribId} {slot : Nat} {page : BitVec 3} {rest : List WordKind},
    kinds = .read t slot page :: rest → OnePage kinds →
    ∃ p ps, cutPieces k kinds = p :: ps ∧ p.trib = t ∧ p.first = k ∧ p.slot = slot ∧ p.page = page ∧ 1 ≤ p.length := by
  induction kinds with
  | nil => nofun
  | cons x rest ih =>
    rintro k t slot page rest' hx hpage
    cases hx
    cases hj : joinsNext t slot rest with
    | false => exact ⟨_, _, cutPieces_alone hj, rfl, rfl, rfl, rfl, le_rfl⟩
    | true =>
      obtain ⟨-, page', rest'', rfl⟩ := joinsNext_iff.1 hj
      obtain ⟨p, ps, hp, htrib, -, -, hpage', -⟩ := ih (k := k + 1) rfl hpage.tail
      have heq : page' = page := hpage t (slot + 1) slot page' page (by simp) (by simp)
      exact ⟨_, _, cutPieces_joined hj hp, htrib, rfl, rfl, hpage'.trans heq, Nat.succ_pos _⟩

/-- The words of a piece: its offset in the read, its tributary, its slot and its page, word after word. -/
def Piece.words (p : Piece) : List (Nat × TribId × Nat × BitVec 3) :=
  (List.range p.length).map fun j => (p.first + j, p.trib, p.slot + j, p.page)

theorem Piece.words_grown (p : Piece) {k slot : Nat} (hk : p.first = k + 1) (hs : p.slot = slot + 1) :
    Piece.words { p with first := k, slot := slot, length := p.length + 1 } = (k, p.trib, slot, p.page) :: p.words := by
  unfold Piece.words
  rw [List.range_succ_eq_map, List.map_cons, List.map_map]
  refine congrArg₂ _ rfl (List.map_congr_left fun j _ => ?_)
  simp only [Function.comp, hk, hs, Nat.succ_eq_add_one, Prod.mk.injEq, and_true, true_and]
  omega

/-- The read words of a list, with their offsets from k. -/
def readWords (k : Nat) (kinds : List WordKind) : List (Nat × TribId × Nat × BitVec 3) :=
  (kinds.zipIdx k).filterMap fun kn => match kn.1 with
    | .read t slot page => some (kn.2, t, slot, page)
    | _ => none

theorem cutPieces_words (kinds : List WordKind) (k : Nat) (h : OnePage kinds) :
    (cutPieces k kinds).flatMap Piece.words = readWords k kinds := by
  induction kinds generalizing k with
  | nil => rfl
  | cons x rest ih =>
    have hrest := ih (k + 1) h.tail
    cases x with
    | unassigned => rw [cutPieces_unassigned, hrest]; rfl
    | alarm t => rw [cutPieces_alarm, hrest]; rfl
    | read t slot page =>
      have hcons : readWords k (.read t slot page :: rest) = (k, t, slot, page) :: readWords (k + 1) rest := rfl
      rw [hcons, ← hrest]
      cases hj : joinsNext t slot rest with
      | false => rw [cutPieces_alone hj]; rfl
      | true =>
        obtain ⟨-, page', rest', hr⟩ := joinsNext_iff.1 hj
        obtain ⟨p, ps, hp, htrib, hfirst, hslot, hpage, -⟩ := cutPieces_head rest (k := k + 1) hr h.tail
        have heq : page' = page := h t (slot + 1) slot page' page (by simp [hr]) (by simp)
        rw [cutPieces_joined hj hp, hp, List.flatMap_cons, List.flatMap_cons, p.words_grown hfirst hslot, htrib, hpage, heq]
        rfl

/-- No piece is empty and none leaves its block of 8 slots (R101). -/
theorem cutPieces_block {kinds : List WordKind} {k : Nat} (h : OnePage kinds) {p : Piece} (hp : p ∈ cutPieces k kinds) :
    1 ≤ p.length ∧ p.slot / 8 = (p.slot + p.length - 1) / 8 := by
  induction kinds generalizing k p with
  | nil => cases hp
  | cons x rest ih =>
    cases x with
    | unassigned => rw [cutPieces_unassigned] at hp; exact ih h.tail hp
    | alarm t => rw [cutPieces_alarm] at hp; exact ih h.tail hp
    | read t slot page =>
      cases hj : joinsNext t slot rest with
      | false =>
        rw [cutPieces_alone hj] at hp
        obtain rfl | hp := List.mem_cons.1 hp
        · exact ⟨le_rfl, rfl⟩
        · exact ih h.tail hp
      | true =>
        obtain ⟨hblock, page', rest', hr⟩ := joinsNext_iff.1 hj
        obtain ⟨q, qs, hq, -, -, hslot, -, -⟩ := cutPieces_head rest (k := k + 1) hr h.tail
        rw [cutPieces_joined hj hq] at hp
        obtain rfl | hp := List.mem_cons.1 hp
        · obtain ⟨hlen, hsame⟩ := ih h.tail (hq ▸ List.mem_cons_self .. : q ∈ cutPieces (k + 1) rest)
          dsimp only
          rw [hslot] at hsame
          omega
        · exact ih h.tail (hq ▸ List.mem_cons_of_mem _ hp)

/-- Words that join stand in one piece (R4, R101). -/
theorem cutPieces_joins {kinds : List WordKind} {k n : Nat} (h : OnePage kinds) {t : TribId} {slot : Nat} {page page' : BitVec 3}
    (hn : kinds[n]? = some (.read t slot page)) (hn' : kinds[n + 1]? = some (.read t (slot + 1) page'))
    (hblock : (slot + 1) % 8 ≠ 0) : ∃ p ∈ cutPieces k kinds, p.first ≤ k + n ∧ k + n + 1 < p.first + p.length := by
  induction kinds generalizing k n with
  | nil => cases hn
  | cons x rest ih =>
    cases n with
    | zero =>
      cases hn
      rw [List.getElem?_cons_succ, ← List.head?_eq_getElem?] at hn'
      obtain ⟨rest', hr⟩ := List.head?_eq_some_iff.1 hn'
      have hj : joinsNext t slot rest = true := joinsNext_iff.2 ⟨hblock, page', rest', hr⟩
      obtain ⟨p, ps, hp, -, -, -, -, hlen⟩ := cutPieces_head rest (k := k + 1) hr h.tail
      rw [cutPieces_joined hj hp]
      exact ⟨_, List.mem_cons_self .., le_rfl, by dsimp only; omega⟩
    | succ n =>
      obtain ⟨p, hp, hfirst, hlast⟩ := ih (k := k + 1) h.tail hn hn'
      have hshift : p ∈ cutPieces k (x :: rest) → ∃ p ∈ cutPieces k (x :: rest), p.first ≤ k + (n + 1) ∧
          k + (n + 1) + 1 < p.first + p.length := fun hm => ⟨p, hm, by omega, by omega⟩
      cases x with
      | unassigned => exact hshift (by rw [cutPieces_unassigned]; exact hp)
      | alarm t => exact hshift (by rw [cutPieces_alarm]; exact hp)
      | read u slot' pg =>
        cases hj : joinsNext u slot' rest with
        | false => exact hshift (by rw [cutPieces_alone hj]; exact List.mem_cons_of_mem _ hp)
        | true =>
          obtain ⟨-, page'', rest', hr⟩ := joinsNext_iff.1 hj
          obtain ⟨q, qs, hq, -, hqfirst, -⟩ := cutPieces_head rest (k := k + 1) hr h.tail
          rw [cutPieces_joined hj hq] at hshift ⊢
          rw [hq] at hp
          obtain rfl | hp := List.mem_cons.1 hp
          · exact ⟨_, List.mem_cons_self .., Nat.le_add_right _ _, by dsimp only; omega⟩
          · exact hshift (List.mem_cons_of_mem _ hp)

/-- Settles O16: the words, the block of each piece, and the words that join. -/
theorem piecesCoverReadPositions : Obligations.PiecesCoverReadPositions := by
  intro kinds hpage
  refine ⟨cutPieces_words kinds 0 hpage, fun p hp => cutPieces_block hpage hp, fun n t slot page page' hn hn' hblock => ?_⟩
  have := cutPieces_joins (k := 0) hpage hn hn' hblock
  simpa only [Nat.zero_add] using this

end Sys2Proof.Machine
end

section
/-! SUPPORT. The record of a command spells the command (R149, R182), and every command row runs its command on its record. -/

namespace Sys2Proof

open Machine

/-- A number read back from the bytes that stand at its place. -/
theorem recNat_of_leBytes {r : Record} {at_ n v : Nat} (h : ∀ j < n, recByte r (at_ + j) = (leBytes n v).getD j 0) :
    recNat r at_ n = v % 256 ^ n := by
  have hbytes : (List.range n).map (fun j => recByte r (at_ + j)) = leBytes n v := by
    refine List.ext_getElem (by simp) fun j hj hj' => ?_
    rw [List.getElem_map, List.getElem_range, h j (by simpa using hj), List.getD_eq_getElem _ _ hj']
  rw [recNat, hbytes, natOfBytes_leBytes]

/-- A code outside Figure 12-6 is BAD_CODE, whatever else the record holds (R150). -/
theorem Command.ofRecord_of_unknown {r : Record} (h : recByte r 0 ∉ knownCodes) :
    Command.ofRecord r = .badCode (recByte r 0) := by
  unfold Command.ofRecord
  dsimp only
  split
  case h_18 => rfl
  all_goals
    next hcode =>
      rw [← byte_toNat (recByte r 0), hcode] at h
      exact absurd (by decide) h

theorem Command.length_record (c : Command) : c.record.length = 128 := by
  cases c <;> exact length_recordOf ..


/-- A number among a list's bytes: the bytes from i on are the number's own. -/
theorem getD_of_take_drop {bs : List Byte} {i n v : Nat} (h : (bs.drop i).take n = leBytes n v) {j : Nat} (hj : j < n) :
    bs.getD (i + j) 0 = (leBytes n v).getD j 0 := by
  rw [← h, List.getD_eq_getElem?_getD, List.getD_eq_getElem?_getD, List.getElem?_take_of_lt hj, List.getElem?_drop]

section Places

variable {code flags : Byte} {tributary : BitVec 16} {carrier width targetLag fill : Byte} {params grains : List Byte}

/-- A number among the command parameters. -/
theorem recNat_recordOf_param {i n v : Nat} (hi : i + n ≤ 8) (h : (params.drop i).take n = leBytes n v) :
    recNat (recordOf code flags tributary carrier width targetLag fill params grains) (8 + i) n = v % 256 ^ n :=
  recNat_of_leBytes fun j hj => by
    rw [Nat.add_assoc, recByte_recordOf_param _ _ _ _ _ _ _ _ _ _ (by omega), getD_of_take_drop h hj]

/-- A number among the bytes of the grain list field. -/
theorem recNat_recordOf_grain {i n v : Nat} (hi : i + n ≤ 64) (h : (grains.drop i).take n = leBytes n v) :
    recNat (recordOf code flags tributary carrier width targetLag fill params grains) (16 + i) n = v % 256 ^ n :=
  recNat_of_leBytes fun j hj => by
    rw [Nat.add_assoc, recByte_recordOf_grain _ _ _ _ _ _ _ _ _ _ (by omega), getD_of_take_drop h hj]

/-- A flag of the flag byte. -/
theorem recFlag_recordOf {bits : List Bool} {i : Nat} (h : i < 8) :
    recFlag (recordOf code (flagByte bits) tributary carrier width targetLag fill params grains) i = bits.getD i false := by
  rw [recFlag, recByte_recordOf_flags, getLsbD_flagByte _ _ h]

/-- A full grain list field is read back whole. -/
theorem grainField_recordOf (h : grains.length = 64) :
    grainField (recordOf code flags tributary carrier width targetLag fill params grains) = grains := by
  refine List.ext_getElem (by simp [grainField, h]) fun j hj hj' => ?_
  simp only [grainField, List.getElem_map, List.getElem_range]
  rw [recByte_recordOf_grain _ _ _ _ _ _ _ _ _ _ (by omega), List.getD_eq_getElem _ _ hj']

end Places

/-- A number that its place holds is read back as it was. -/
theorem ofNat_mod_toNat {w n : Nat} (v : BitVec w) (h : 2 ^ w ≤ 256 ^ n) : BitVec.ofNat w (v.toNat % 256 ^ n) = v := by
  rw [Nat.mod_eq_of_lt (lt_of_lt_of_le v.isLt h), BitVec.ofNat_toNat, BitVec.setWidth_eq]

theorem limitFields_record (f : LimitFields) : limitFields (Command.setLimits f).record = f := by
  have henter : recNat (Command.setLimits f).record 12 2 = f.enter.toNat % 256 ^ 2 :=
    recNat_recordOf_param (i := 4) (by decide) rfl
  have hleave : recNat (Command.setLimits f).record 14 2 = f.leave.toNat % 256 ^ 2 :=
    recNat_recordOf_param (i := 6) (by decide) rfl
  unfold limitFields
  rw [henter, hleave, ofNat_mod_toNat _ (by decide), ofNat_mod_toNat _ (by decide)]
  simp only [Command.record, recFlag_recordOf (show 0 < 8 by decide), recFlag_recordOf (show 1 < 8 by decide),
    recFlag_recordOf (show 2 < 8 by decide), recFlag_recordOf (show 3 < 8 by decide),
    recFlag_recordOf (show 4 < 8 by decide), recFlag_recordOf (show 5 < 8 by decide)]
  rfl

theorem noticeFields_record (f : NoticeFields) : noticeFields (Command.setNotice f).record = f := by
  unfold noticeFields
  simp only [Command.record, recFlag_recordOf (show 0 < 8 by decide)]
  rfl

theorem monitorFields_record (f : MonitorFields) : monitorFields (Command.setMonitor f).record = f := by
  have hnote : recNat (Command.setMonitor f).record 12 4 = f.note.toNat % 256 ^ 4 :=
    recNat_recordOf_param (i := 4) (by decide) rfl
  have hmatch : recNat (Command.setMonitor f).record 18 2 = f.tribMatch.toNat % 256 ^ 2 :=
    recNat_recordOf_grain (i := 2) (by decide) rfl
  have hmask : recNat (Command.setMonitor f).record 20 2 = f.tribMask.toNat % 256 ^ 2 :=
    recNat_recordOf_grain (i := 4) (by decide) rfl
  have hcount : recNat (Command.setMonitor f).record 22 6 = f.count.toNat % 256 ^ 6 :=
    recNat_recordOf_grain (i := 6) (by decide) rfl
  have hflags : recByte (Command.setMonitor f).record 10 = flagByte [f.carrierFilter, f.tribFilter, f.report] := rfl
  unfold monitorFields
  rw [hnote, hmatch, hmask, hcount, hflags, ofNat_mod_toNat _ (by decide), ofNat_mod_toNat _ (by decide),
    ofNat_mod_toNat _ (by decide), ofNat_mod_toNat _ (by decide), getLsbD_flagByte _ 0 (by decide),
    getLsbD_flagByte _ 1 (by decide), getLsbD_flagByte _ 2 (by decide)]
  rfl

/-- The record of a command spells that command (R149, R182). -/
theorem Command.ofRecord_record {c : Command} (h : c.wellFormed = true) : Command.ofRecord c.record = c := by
  cases c with
  | attach | detach | clearCounts | unplace | carrierOff | queryTributary | clearTables =>
    simp [Command.ofRecord, Command.record]
  | place t c p sc g =>
    have hlen : g.length = 64 := beq_iff_eq.1 h
    simp [Command.ofRecord, Command.record, recFlag_recordOf, grainField_recordOf hlen]
  | regroom t c p sc g =>
    have hlen : g.length = 64 := beq_iff_eq.1 h
    simp [Command.ofRecord, Command.record, recFlag_recordOf, grainField_recordOf hlen]
  | carrierOn c l =>
    have hlimit : recNat (Command.carrierOn c l).record 8 2 = l.toNat % 256 ^ 2 :=
      recNat_recordOf_param (i := 0) (by decide) rfl
    have hspelt : Command.ofRecord (Command.carrierOn c l).record =
      .carrierOn c (BitVec.ofNat 16 (recNat (Command.carrierOn c l).record 8 2)) := rfl
    rw [hspelt, hlimit, ofNat_mod_toNat _ (by decide)]
  | setLimits f => exact congrArg Command.setLimits (limitFields_record f)
  | setNotice f => exact congrArg Command.setNotice (noticeFields_record f)
  | setMonitor f => exact congrArg Command.setMonitor (monitorFields_record f)
  | mark v =>
    have hvalue : recNat (Command.mark v).record 8 4 = v.toNat % 256 ^ 4 :=
      recNat_recordOf_param (i := 0) (by decide) rfl
    have hspelt : Command.ofRecord (Command.mark v).record =
      .mark (BitVec.ofNat 32 (recNat (Command.mark v).record 8 4)) := rfl
    rw [hspelt, hvalue, ofNat_mod_toNat _ (by decide)]
  | queryCarrier | readMonitor | lockMonitor => rfl
  | badCode code =>
    have hcode : code ∉ knownCodes := by simpa [Command.wellFormed, Command.row, Instr.wellFormed] using h
    exact Command.ofRecord_of_unknown (r := (Command.badCode code).record) hcode

/-- Settles O60: the length of a record, and the command it spells. -/
theorem commandRecordRoundTrip : Obligations.CommandRecordRoundTrip :=
  fun c h => ⟨c.length_record, Command.ofRecord_record h⟩

namespace Machine

/-- With the fetch outstanding every command row runs its command on its record (R129, R147, R148). -/
theorem exec_row_of_issued {s : State} (hf : s.response.fetch.issued = true) {c : Command} (h : c.wellFormed = true) :
    exec c.row s = .next ((s.beginCommand c.record).run c) := by
  cases c with
  | badCode code =>
    have hrow : exec (Command.badCode code).row s =
      .next ((s.beginCommand (Command.badCode code).record).run (Command.ofRecord (Command.badCode code).record)) :=
      congrArg Host.Outcome.next (State.underFetch_issued hf _ _)
    rw [hrow, Command.ofRecord_record h]
  | _ => exact congrArg Host.Outcome.next (State.underFetch_issued hf _ _)

/-- Settles O47: the record spells BAD_CODE, which completes and does nothing else. -/
theorem unknownCodeRefused : Obligations.UnknownCodeRefused :=
  fun code s hf hwf => ⟨_, exec_row_of_issued hf (c := .badCode code) hwf, s.complete_beginCommand_onlyCompletes _ _ _⟩

end Machine
end Sys2Proof
end

section
/-! SUPPORT. The commands on tributary records, carrier records, the notice settings and the monitor: each outcome of their tests
(R36 to R40, R56, R57, R155 to R158, R170, R178, R180). -/

namespace Sys2Proof.Machine

/-! ## What a command row leaves -/

/-- A command that answers on its record as it stands completes, and does nothing else (R150). -/
theorem exec_row_onlyCompletes {s : State} (hf : s.response.fetch.issued = true) {c : Command} (hwf : c.wellFormed = true)
    {code : Completion} {data : List Byte}
    (h : (s.beginCommand c.record).run c = (s.beginCommand c.record).complete code data) :
    ∃ u, exec c.row s = .next u ∧ OnlyCompletes s u code data :=
  ⟨_, exec_row_of_issued hf hwf, h ▸ s.complete_beginCommand_onlyCompletes _ _ _⟩

/-- A command that writes one tributary's record and completes. -/
theorem exec_row_setTrib {s : State} (hf : s.response.fetch.issued = true) {c : Command} (hwf : c.wellFormed = true)
    {t : TribId} {new : Tributary} {code : Completion} {data : List Byte}
    (h : (s.beginCommand c.record).run c = ((s.beginCommand c.record).setTrib t new).complete code data) :
    ∃ u, exec c.row s = .next u ∧ u.trib t = new ∧ SameOtherTribs s u t ∧ u.carriers = s.carriers ∧ u.change = s.change ∧
      SameReporting s u ∧ CompletesWork s u s.mQueue code data := by
  refine ⟨_, (exec_row_of_issued hf hwf).trans (congrArg _ h), ?_, fun v hv => ?_, ?_, ?_, ⟨?_, ?_, ?_⟩,
    State.complete_completesWork s _ code data ⟨rfl, rfl, rfl, rfl, rfl, rfl⟩ rfl rfl rfl rfl⟩
  · simp [State.complete]
  · simp [State.complete, State.trib_setTrib_ne _ _ _ _ hv]
  all_goals simp [State.complete]

/-- A command that writes one tributary's record, raises an event and completes. -/
theorem exec_row_setTrib_raise {s : State} (hf : s.response.fetch.issued = true) {c : Command} (hwf : c.wellFormed = true)
    {t : TribId} {new : Tributary} {e : Event} {code : Completion} {data : List Byte}
    (h : (s.beginCommand c.record).run c = (((s.beginCommand c.record).setTrib t new).raise e).complete code data) :
    ∃ u, exec c.row s = .next u ∧ u.trib t = new ∧ SameOtherTribs s u t ∧ u.carriers = s.carriers ∧ u.change = s.change ∧
      SameReporting (s.raise e) u ∧ CompletesWork s u (s.raise e).mQueue code data := by
  have hsame : SameForReports (s.raise e) (((s.beginCommand c.record).setTrib t new).raise e) :=
    State.raise_congr e ⟨rfl, rfl, rfl, rfl, rfl⟩
  have hwork := State.complete_completesWork s (((s.beginCommand c.record).setTrib t new).raise e) code data
    ⟨by simp, by simp, by simp, by simp, by simp, by simp⟩ (by simp [SameLimits]) (by simp) (by simp) (by simp)
  rw [hsame.mQueue] at hwork
  refine ⟨_, (exec_row_of_issued hf hwf).trans (congrArg _ h), ?_, fun v hv => ?_, ?_, ?_, ⟨?_, ?_, ?_⟩, hwork⟩
  · simp [State.complete]
  · simp [State.complete, State.trib_setTrib_ne _ _ _ _ hv]
  · simp [State.complete]
  · simp [State.complete]
  · simpa [State.complete] using hsame.events
  · simpa [State.complete] using hsame.monitor
  · simpa [State.complete] using hsame.draws

/-- A command that writes one carrier's record and completes. -/
theorem exec_row_setCarrier {s : State} (hf : s.response.fetch.issued = true) {c : Command} (hwf : c.wellFormed = true)
    {d : CarrierId} {new : Carrier} {code : Completion} {data : List Byte}
    (h : (s.beginCommand c.record).run c = ((s.beginCommand c.record).setCarrier d new).complete code data) :
    ∃ u, exec c.row s = .next u ∧ u.carrier d = new ∧ SameOtherCarriers s u d ∧ u.tributaries = s.tributaries ∧
      u.change = s.change ∧ SameReporting s u ∧ CompletesWork s u s.mQueue code data := by
  refine ⟨_, (exec_row_of_issued hf hwf).trans (congrArg _ h), ?_, fun v hv => ?_, ?_, ?_, ⟨?_, ?_, ?_⟩,
    State.complete_completesWork s _ code data ⟨rfl, rfl, rfl, rfl, rfl, rfl⟩ rfl rfl rfl rfl⟩
  · simp [State.complete]
  · simp [State.complete, State.carrier_setCarrier_ne _ _ _ _ hv]
  all_goals simp [State.complete]

/-- A command that writes one monitor counter and completes. -/
theorem exec_row_setCounter {s : State} (hf : s.response.fetch.issued = true) {c : Command} (hwf : c.wellFormed = true)
    {n : Fin 8} {new : Counter} {code : Completion} {data : List Byte}
    (h : (s.beginCommand c.record).run c = ((s.beginCommand c.record).setCounter n new).complete code data) :
    ∃ u, exec c.row s = .next u ∧ u.counter n = new ∧ (∀ m : Fin 8, m ≠ n → u.counter m = s.counter m) ∧
      u.events = s.events ∧ u.draws = s.draws ∧ SameTables s u ∧ CompletesWork s u s.mQueue code data := by
  refine ⟨_, (exec_row_of_issued hf hwf).trans (congrArg _ h), ?_, fun m hm => ?_, ?_, ?_, ⟨?_, ?_, ?_⟩,
    State.complete_completesWork s _ code data ⟨rfl, rfl, rfl, rfl, rfl, rfl⟩ rfl rfl rfl rfl⟩
  · simp [State.complete]
  · simp [State.complete, State.counter_setCounter_ne _ _ _ _ hm]
  all_goals simp [State.complete]

/-- A command that writes the event writer's settings and completes. -/
theorem exec_row_setEvents {s : State} (hf : s.response.fetch.issued = true) {c : Command} (hwf : c.wellFormed = true)
    {new : EventWriter} {code : Completion} {data : List Byte}
    (h : (s.beginCommand c.record).run c = { s.beginCommand c.record with events := new }.complete code data) :
    ∃ u, exec c.row s = .next u ∧ u.events = new ∧ u.monitor = s.monitor ∧ u.draws = s.draws ∧ SameTables s u ∧
      CompletesWork s u s.mQueue code data := by
  refine ⟨_, (exec_row_of_issued hf hwf).trans (congrArg _ h), ?_, ?_, ?_, ⟨?_, ?_, ?_⟩,
    State.complete_completesWork s _ code data ⟨rfl, rfl, rfl, rfl, rfl, rfl⟩ rfl rfl rfl rfl⟩
  all_goals simp [State.complete]

/-! ## Tributary commands -/

section TributaryOutOfRange

variable {tributary : BitVec 16} (h : 1024 ≤ tributary.toNat) (s : State)

include h

theorem attachCommand_of_out_of_range (width lag fill : Byte) :
    attachCommand tributary width lag fill s = s.complete .badField [] := by
  rw [attachCommand, toTrib?_of_ge h]

theorem detachCommand_of_out_of_range : detachCommand tributary s = s.complete .badField [] := by
  rw [detachCommand, toTrib?_of_ge h]

theorem clearCountsCommand_of_out_of_range : clearCountsCommand tributary s = s.complete .badField [] := by
  rw [clearCountsCommand, toTrib?_of_ge h]

theorem queryTributaryCommand_of_out_of_range : queryTributaryCommand tributary s = s.complete .badField [] := by
  rw [queryTributaryCommand, toTrib?_of_ge h]

end TributaryOutOfRange

section TributaryInRange

variable {tributary : BitVec 16} {t : TribId} (h : t.val = tributary.toNat) {s : State}

include h

theorem attachCommand_of_bad_width {width : Byte} (lag fill : Byte) (hw : width.toNat = 0 ∨ 60 < width.toNat) :
    attachCommand tributary width lag fill s = s.complete .badField [(s.trib t).state.code] := by
  rw [attachCommand, toTrib?_of_val h]
  exact if_pos hw

theorem attachCommand_of_not_free {width : Byte} (lag fill : Byte) (hw : 1 ≤ width.toNat ∧ width.toNat ≤ 60)
    (hs : (s.trib t).state ≠ .free) :
    attachCommand tributary width lag fill s = s.complete .wrongState [(s.trib t).state.code] := by
  rw [attachCommand, toTrib?_of_val h]
  exact (if_neg (by omega)).trans (if_pos hs)

theorem attachCommand_of_free {width : Byte} (lag fill : Byte) (hw : 1 ≤ width.toNat ∧ width.toNat ≤ 60)
    (hs : (s.trib t).state = .free) :
    attachCommand tributary width lag fill s = (s.setTrib t ((s.trib t).attached width lag fill)).complete .done
      [1, width, BitVec.ofNat 8 (max 2 (min 5 lag.toNat)), fill] := by
  have hwidth : byte width.toNat = width := byte_toNat width
  rw [attachCommand, toTrib?_of_val h]
  refine (if_neg (by omega)).trans ((if_neg (not_not.2 hs)).trans ?_)
  change (s.setTrib t _).complete .done [1, byte width.toNat, _, fill] = _
  rw [hwidth]
  rfl

theorem detachCommand_of_not_idle (hs : (s.trib t).state ≠ .idle) :
    detachCommand tributary s = s.complete .wrongState [(s.trib t).state.code] := by
  rw [detachCommand, toTrib?_of_val h]
  exact if_pos hs

theorem detachCommand_of_none_in_flight (hs : (s.trib t).state = .idle) (hn : (s.trib t).inFlight = 0) :
    detachCommand tributary s =
      ((s.setTrib t { s.trib t with state := .free, width := 0 }).raise (.tribRetired t)).complete .done [0, 0] := by
  rw [detachCommand, toTrib?_of_val h]
  exact (if_neg (not_not.2 hs)).trans (if_pos hn)

theorem detachCommand_of_in_flight (hs : (s.trib t).state = .idle) (hn : (s.trib t).inFlight ≠ 0) :
    detachCommand tributary s = (s.setTrib t { s.trib t with state := .retiring, width := 0 }).complete .done
      [4, BitVec.ofNat 8 (s.trib t).inFlight] := by
  rw [detachCommand, toTrib?_of_val h]
  exact (if_neg (not_not.2 hs)).trans (if_neg hn)

theorem clearCountsCommand_of_free (hs : (s.trib t).state = .free) :
    clearCountsCommand tributary s = s.complete .wrongState [0] := by
  rw [clearCountsCommand, toTrib?_of_val h]
  exact (if_pos hs).trans (by rw [hs]; rfl)

theorem clearCountsCommand_of_not_free (hs : (s.trib t).state ≠ .free) :
    clearCountsCommand tributary s =
      (s.setTrib t (s.trib t).cleared).complete .done ([(s.trib t).state.code, 0] ++ countBytes (s.trib t)) := by
  rw [clearCountsCommand, toTrib?_of_val h]
  exact if_neg hs

theorem queryTributaryCommand_of_val :
    queryTributaryCommand tributary s = s.complete .done (tributaryBytes (s.trib t)) := by
  rw [queryTributaryCommand, toTrib?_of_val h]

end TributaryInRange

/-- Settles O32: each outcome of the tests of ATTACH. -/
theorem attachExecutesOrRefuses : Obligations.AttachExecutesOrRefuses := by
  intro tributary width lag fill s hf
  refine ⟨fun hrange => ?_, fun t ht => ⟨fun hw => ?_, fun hw hs => ?_, fun hw hs => ?_⟩⟩
  · exact exec_row_onlyCompletes hf (c := .attach tributary width lag fill) rfl
      (attachCommand_of_out_of_range hrange _ width lag fill)
  · exact exec_row_onlyCompletes hf (c := .attach tributary width lag fill) rfl (attachCommand_of_bad_width ht lag fill hw)
  · exact exec_row_onlyCompletes hf (c := .attach tributary width lag fill) rfl
      (attachCommand_of_not_free (s := s.beginCommand _) ht lag fill hw hs)
  · exact exec_row_setTrib hf (c := .attach tributary width lag fill) rfl
      (attachCommand_of_free (s := s.beginCommand _) ht lag fill hw hs)

/-- Settles O33: each outcome of the tests of DETACH. -/
theorem detachExecutesOrRefuses : Obligations.DetachExecutesOrRefuses := by
  intro tributary s hf
  refine ⟨fun hrange => ?_, fun t ht => ⟨fun hs => ?_, fun hs hn => ?_, fun hs hn => ?_⟩⟩
  · exact exec_row_onlyCompletes hf (c := .detach tributary) rfl (detachCommand_of_out_of_range hrange _)
  · exact exec_row_onlyCompletes hf (c := .detach tributary) rfl (detachCommand_of_not_idle (s := s.beginCommand _) ht hs)
  · exact exec_row_setTrib_raise hf (c := .detach tributary) rfl
      (detachCommand_of_none_in_flight (s := s.beginCommand _) ht hs hn)
  · exact exec_row_setTrib hf (c := .detach tributary) rfl (detachCommand_of_in_flight (s := s.beginCommand _) ht hs hn)

/-- Settles O34: each outcome of the tests of CLEAR-COUNTS. -/
theorem clearCountsReturnsAndClears : Obligations.ClearCountsReturnsAndClears := by
  intro tributary s hf
  refine ⟨fun hrange => ?_, fun t ht => ⟨fun hs => ?_, fun hs => ?_⟩⟩
  · exact exec_row_onlyCompletes hf (c := .clearCounts tributary) rfl (clearCountsCommand_of_out_of_range hrange _)
  · exact exec_row_onlyCompletes hf (c := .clearCounts tributary) rfl
      (clearCountsCommand_of_free (s := s.beginCommand _) ht hs)
  · have hdata : [(s.trib t).state.code, 0] ++ countBytes (s.trib t) = [(s.trib t).state.code, 0] ++
        leBytes 2 (s.trib t).repeatSlips.toNat ++ leBytes 2 (s.trib t).skipSlips.toNat ++ leBytes 2 (s.trib t).jumps.toNat ++
        leBytes 2 (s.trib t).strays.toNat := rfl
    exact hdata ▸ exec_row_setTrib hf (c := .clearCounts tributary) rfl
      (clearCountsCommand_of_not_free (s := s.beginCommand _) ht hs)

/-! ## Carrier commands -/

section CarrierOutOfRange

variable {carrier : Byte} (h : 16 ≤ carrier.toNat) (s : State)

include h

theorem carrierOnCommand_of_out_of_range (limit : BitVec 16) :
    carrierOnCommand carrier limit s = s.complete .badField [] := by
  rw [carrierOnCommand, toCarrier?_of_ge h]

theorem carrierOffCommand_of_out_of_range : carrierOffCommand carrier s = s.complete .badField [] := by
  rw [carrierOffCommand, toCarrier?_of_ge h]

theorem queryCarrierCommand_of_out_of_range (start : Byte) :
    queryCarrierCommand carrier start s = s.complete .badField [] := by
  rw [queryCarrierCommand, toCarrier?_of_ge h]

end CarrierOutOfRange

section CarrierInRange

variable {carrier : Byte} {c : CarrierId} (h : c.val = carrier.toNat) {s : State}

include h

theorem carrierOnCommand_of_val (limit : BitVec 16) :
    carrierOnCommand carrier limit s = (s.setCarrier c ((s.carrier c).turnedOn limit.toNat)).complete .done
      (overheadBytes ((s.carrier c).turnedOn limit.toNat)) := by
  rw [carrierOnCommand, toCarrier?_of_val h]

theorem carrierOffCommand_of_mapped (hm : 0 < (s.carrier c).mapped) :
    carrierOffCommand carrier s = s.complete .wrongState (overheadBytes (s.carrier c)) := by
  rw [carrierOffCommand, toCarrier?_of_val h]
  exact if_pos hm

theorem carrierOffCommand_of_unmapped (hm : (s.carrier c).mapped = 0) :
    carrierOffCommand carrier s =
      (s.setCarrier c (s.carrier c).turnedOff).complete .done (overheadBytes (s.carrier c).turnedOff) := by
  rw [carrierOffCommand, toCarrier?_of_val h]
  exact if_neg (Nat.not_lt.2 (Nat.le_of_eq hm))

theorem queryCarrierCommand_of_val (start : Byte) :
    queryCarrierCommand carrier start s = s.complete .done (carrierBytes (s.carrier c) start.toNat) := by
  rw [queryCarrierCommand, toCarrier?_of_val h]

end CarrierInRange

/-- The bytes of overhead word 240, with the page byte and the flags written out (Figure 12-12). -/
theorem overheadBytes_eq (k : Carrier) :
    overheadBytes k = leBytes 4 k.cycles.toNat ++ leBytes 2 k.generation.toNat ++
      [match k.page with
        | some p => BitVec.ofNat 8 p.toNat
        | none => 0xFF,
        if k.on then 1 else 0, BitVec.ofNat 8 k.mapped, BitVec.ofNat 8 k.cost, BitVec.ofNat 8 k.costLimit,
        if k.pendingFlag then 1 else 0, 0, 0, 0, 0] := by
  unfold overheadBytes pageByte
  cases k.page <;> rfl

/-- The reply of QUERY-CARRIER with its ten entries written out (Figure 12-9). -/
theorem carrierBytes_eq (r : Carrier) (start : Byte) :
    carrierBytes r start.toNat = [byteOfBool r.on, pageByte r.page] ++ leBytes 4 r.cycles.toNat ++
      leBytes 2 r.generation.toNat ++ [BitVec.ofNat 8 r.cost, BitVec.ofNat 8 r.costLimit, BitVec.ofNat 8 r.mapped, start] ++
      (List.range 10).flatMap fun k =>
        match r.map.toList.getD (start.toNat + k) none with
        | some e => leBytes 2 e.trib.val ++ [BitVec.ofNat 8 e.slot]
        | none => [0xFF, 0xFF, 0xFF] := by
  have hentry : ∀ o : Option MapEntry, mapEntryBytes o =
      match o with
      | some e => leBytes 2 e.trib.val ++ [BitVec.ofNat 8 e.slot]
      | none => [0xFF, 0xFF, 0xFF] := fun o => by cases o <;> rfl
  simp only [carrierBytes, hentry, byte_toNat]
  rfl

/-- The reply of QUERY-TRIBUTARY with its counts and placements written out (Figures 12-9 and 12-10). -/
theorem tributaryBytes_eq (tr : Tributary) :
    tributaryBytes tr = [tr.state.code, BitVec.ofNat 8 tr.width, BitVec.ofNat 8 tr.targetLag, tr.fill] ++
      leBytes 2 tr.iw.toNat ++ leBytes 2 tr.repeatSlips.toNat ++ leBytes 2 tr.skipSlips.toNat ++ leBytes 2 tr.jumps.toNat ++
      leBytes 2 tr.strays.toNat ++ [BitVec.ofNat 8 tr.inFlight, 0] ++ placementBytes tr.placements.head? ++
      placementBytes tr.placements.tail.head? := by
  simp only [tributaryBytes, countBytes, List.head?_eq_getElem?, List.getElem?_tail, List.append_assoc]
  rfl

/-- Settles O39: each outcome of the tests of CARRIER-ON and CARRIER-OFF. -/
theorem carrierTurnedOnAndOff : Obligations.CarrierTurnedOnAndOff := by
  intro carrier limit s hf
  refine ⟨fun hrange => ⟨?_, ?_⟩, ?_⟩
  · exact exec_row_onlyCompletes hf (c := .carrierOn carrier limit) rfl (carrierOnCommand_of_out_of_range hrange _ limit)
  · exact exec_row_onlyCompletes hf (c := .carrierOff carrier) rfl (carrierOffCommand_of_out_of_range hrange _)
  intro image c hc
  have himage : image = overheadBytes := funext fun k => (overheadBytes_eq k).symm
  rw [himage]
  refine ⟨?_, fun hm => ?_, fun hm => ?_⟩
  · obtain ⟨u, hu, hself, hother⟩ := exec_row_setCarrier hf (c := .carrierOn carrier limit) rfl
      (carrierOnCommand_of_val (s := s.beginCommand _) hc limit)
    rw [State.beginCommand_carrier] at hself hother
    exact ⟨u, hu, hself, hself ▸ hother⟩
  · exact exec_row_onlyCompletes hf (c := .carrierOff carrier) rfl
      (carrierOffCommand_of_mapped (s := s.beginCommand _) hc hm)
  · obtain ⟨u, hu, hself, hother⟩ := exec_row_setCarrier hf (c := .carrierOff carrier) rfl
      (carrierOffCommand_of_unmapped (s := s.beginCommand _) hc hm)
    rw [State.beginCommand_carrier] at hself hother
    exact ⟨u, hu, hself, hself ▸ hother⟩

/-! ## Queries -/

/-- Settles O43: the range test of each query, and its reply. -/
theorem queriesReportAndChangeNothing : Obligations.QueriesReportAndChangeNothing := by
  intro tributary carrier start s hf
  refine ⟨fun hrange => ?_, fun hrange => ?_, fun t ht => ?_, fun c hc => ?_⟩
  · exact exec_row_onlyCompletes hf (c := .queryTributary tributary) rfl (queryTributaryCommand_of_out_of_range hrange _)
  · exact exec_row_onlyCompletes hf (c := .queryCarrier carrier start) rfl (queryCarrierCommand_of_out_of_range hrange _ start)
  · exact exec_row_onlyCompletes hf (c := .queryTributary tributary) rfl
      ((queryTributaryCommand_of_val (s := s.beginCommand _) ht).trans (congrArg _ (tributaryBytes_eq _)))
  · exact exec_row_onlyCompletes hf (c := .queryCarrier carrier start) rfl
      ((queryCarrierCommand_of_val (s := s.beginCommand _) hc start).trans (congrArg _ (carrierBytes_eq _ start)))

/-! ## SET-NOTICE and MARK -/

/-- The kind that a code names is the kind with that code (R170). -/
theorem toKind?_eq_some {b : Byte} {k : EventKind} : toKind? b = some k ↔ k.code = b := by
  constructor
  · intro h
    simpa using List.find?_some h
  · rintro rfl
    cases k <;> rfl

theorem toKind?_eq_none {b : Byte} (h : ∀ k : EventKind, k.code ≠ b) : toKind? b = none := by
  unfold toKind?
  rw [List.find?_eq_none]
  exact fun k _ => by simpa using h k

theorem EventKind.all_index (k : EventKind) : EventKind.all[k.index] = k := by
  cases k <;> rfl

theorem EventKind.index_injective : Function.Injective EventKind.index := fun j k h => by
  rw [← j.all_index, ← k.all_index, h]

theorem EventWriter.noticed_setting_self (w : EventWriter) (k : EventKind) (f : NoticeFields) :
    (w.noticed k f).setting k = ⟨f.enable ≠ 0, min 7 f.priority.toNat⟩ := by
  simp [EventWriter.noticed, EventWriter.setting, clamp]

theorem EventWriter.noticed_setting_ne (w : EventWriter) {k j : EventKind} (f : NoticeFields) (h : j ≠ k) :
    (w.noticed k f).setting j = w.setting j := by
  have hindex : k.index.val ≠ j.index.val := fun hk => h (EventKind.index_injective (Fin.ext hk)).symm
  simp [EventWriter.noticed, EventWriter.setting, Vector.getElem_set_ne, hindex]

theorem EventWriter.noticed_threshold (w : EventWriter) (k : EventKind) (f : NoticeFields) :
    (w.noticed k f).threshold = if f.applyThreshold then min 7 f.threshold.toNat else w.threshold := by
  simp [EventWriter.noticed, clamp]

theorem setNoticeCommand_of_kind {f : NoticeFields} {k : EventKind} (h : k.code = f.kind) {s : State} :
    setNoticeCommand f s = { s with events := s.events.noticed k f }.complete .done
      (noticeBytes f.kind (s.events.setting k) ((s.events.noticed k f).setting k) (s.events.noticed k f)) := by
  rw [setNoticeCommand, toKind?_eq_some.2 h]

/-- Settles O41: an unknown code is refused; a known one writes its setting, the threshold and the line. -/
theorem setNoticeWritesKindAndThreshold : Obligations.SetNoticeWritesKindAndThreshold := by
  intro f s hf
  refine ⟨fun hnone => ?_, fun k hk => ?_⟩
  · refine exec_row_onlyCompletes hf (c := .setNotice f) rfl ?_
    change setNoticeCommand f _ = _
    rw [setNoticeCommand, toKind?_eq_none hnone]
  · obtain ⟨u, hu, hevents, hmonitor, hdraws, htables, hwork⟩ := exec_row_setEvents hf (c := .setNotice f) rfl
      (setNoticeCommand_of_kind (s := s.beginCommand _) hk)
    refine ⟨u, hu, ?_⟩
    dsimp only
    rw [hevents]
    rw [State.beginCommand_events, s.events.noticed_setting_self k f] at hwork
    exact ⟨s.events.noticed_setting_self k f, fun j hj => s.events.noticed_setting_ne f hj, s.events.noticed_threshold k f, rfl, rfl, rfl, rfl,
      noticeLevel_iff _ _, hmonitor, hdraws, htables, hwork⟩

/-- MARK's event is written, with room in the ring, and W rises by 1 (R157, R162). -/
theorem State.raise_written_count {s : State} {e : Event} (henabled : (s.events.setting e.kind).enabled = true)
    (hroom : (s.events.written - s.events.taken).toNat ≠ 1024) : (s.raise e).events.written = s.events.written + 1 := by
  have hfull : s.events.full = false := by simpa [EventWriter.full] using hroom
  rw [s.raise_written e henabled hfull]
  rfl

/-- Settles O42: the event is raised, and W of the reply is read behind it. -/
theorem markRaisesItsEvent : Obligations.MarkRaisesItsEvent := by
  intro value s hf
  have hsame : SameForReports (s.raise (.mark value)) ((s.beginCommand (Command.mark value).record).raise (.mark value)) :=
    State.raise_congr _ ⟨rfl, rfl, rfl, rfl, rfl⟩
  have hwork := State.complete_completesWork s ((s.beginCommand (Command.mark value).record).raise (.mark value)) .done
    (leBytes 4 value.toNat ++ leBytes 2 (s.raise (.mark value)).events.written.toNat)
    ⟨by simp, by simp, by simp, by simp, by simp, by simp⟩ (by simp [SameLimits]) (by simp) (by simp) (by simp)
  have hrun : (s.beginCommand (Command.mark value).record).run (.mark value) =
      ((s.beginCommand (Command.mark value).record).raise (.mark value)).complete .done
        (leBytes 4 value.toNat ++ leBytes 2 (s.raise (.mark value)).events.written.toNat) := by
    rw [← hsame.events]
    rfl
  rw [hsame.mQueue] at hwork
  refine ⟨_, (exec_row_of_issued hf (c := .mark value) rfl).trans (congrArg _ hrun), ⟨?_, ?_, ?_⟩, ⟨?_, ?_, ?_⟩, hwork,
    fun henabled hroom => ?_⟩
  · simpa [State.complete] using hsame.events
  · simpa [State.complete] using hsame.monitor
  · simpa [State.complete] using hsame.draws
  · simp [State.complete]
  · simp [State.complete]
  · simp [State.complete]
  · simpa [State.complete, hsame.events] using State.raise_written_count henabled hroom

/-! ## Monitor commands -/

theorem setMonitorCommand_of_refused {f : MonitorFields} (h : 8 ≤ f.counter.toNat ∨ toSource? f.source = none) (s : State) :
    setMonitorCommand f s = s.complete .badField [] := by
  unfold setMonitorCommand
  rcases h with h | h
  · rw [toCounter?_of_ge h]
  · rw [h]
    cases toCounter? f.counter <;> rfl

theorem lockMonitorCommand_of_out_of_range {counter : Byte} (h : 8 ≤ counter.toNat) (s : State) :
    lockMonitorCommand counter s = s.complete .badField [] := by
  rw [lockMonitorCommand, toCounter?_of_ge h]

section CounterInRange

variable {s : State} {n : Fin 8}

theorem setMonitorCommand_of_locked {f : MonitorFields} (h : n.val = f.counter.toNat) {source : Option OccKind}
    (hsource : toSource? f.source = some source) (hlock : (s.counter n).lock = true) :
    setMonitorCommand f s = s.complete .locked (counterBytes n (s.counter n)) := by
  rw [setMonitorCommand, toCounter?_of_val h, hsource]
  exact if_pos hlock

theorem setMonitorCommand_of_unlocked {f : MonitorFields} (h : n.val = f.counter.toNat) {source : Option OccKind}
    (hsource : toSource? f.source = some source) (hlock : (s.counter n).lock = false) :
    setMonitorCommand f s =
      (s.setCounter n ((s.counter n).set source f)).complete .done (counterBytes n (s.counter n)) := by
  rw [setMonitorCommand, toCounter?_of_val h, hsource]
  exact if_neg (Bool.eq_false_iff.1 hlock)

theorem lockMonitorCommand_of_locked {counter : Byte} (h : n.val = counter.toNat) (hlock : (s.counter n).lock = true) :
    lockMonitorCommand counter s = s.complete .locked (counterBytes n (s.counter n)) := by
  rw [lockMonitorCommand, toCounter?_of_val h]
  exact if_pos hlock

theorem lockMonitorCommand_of_unlocked {counter : Byte} (h : n.val = counter.toNat) (hlock : (s.counter n).lock = false) :
    lockMonitorCommand counter s = (s.setCounter n { s.counter n with lock := true }).complete .done
      (counterBytes n { s.counter n with lock := true }) := by
  rw [lockMonitorCommand, toCounter?_of_val h]
  exact if_neg (Bool.eq_false_iff.1 hlock)

end CounterInRange

/-- The low bits of a field are the field modulo a power of two. -/
theorem setWidth_eq_ofNat_mod {w : Nat} (n : Nat) (v : BitVec w) : v.setWidth n = BitVec.ofNat n (v.toNat % 2 ^ n) := by
  apply BitVec.eq_of_toNat_eq
  simp

theorem Counter.set_of_unlocked {k : Counter} (h : k.lock = false) (source : Option OccKind) (f : MonitorFields) :
    k.set source f =
      { source := source, carrierFilter := f.carrierFilter,
        carrierMatch := BitVec.ofNat 4 (f.carrierMatch.toNat % 16),
        carrierMask := BitVec.ofNat 4 (f.carrierMask.toNat % 16), tribFilter := f.tribFilter,
        tribMatch := BitVec.ofNat 10 (f.tribMatch.toNat % 1024),
        tribMask := BitVec.ofNat 10 (f.tribMask.toNat % 1024), report := f.report, note := f.note,
        count := f.count, lock := false } := by
  rw [Counter.set, h, setWidth_eq_ofNat_mod 4, setWidth_eq_ofNat_mod 4, setWidth_eq_ofNat_mod 10, setWidth_eq_ofNat_mod 10]
  rfl

/-- Settles O45: each outcome of the tests of SET-MONITOR and LOCK-MONITOR. -/
theorem monitorSetAndLocked : Obligations.MonitorSetAndLocked := by
  intro f s hf
  refine ⟨fun h => ?_, fun h => ?_, fun n hn => ⟨fun hlock => ⟨fun source hsource => ?_, ?_⟩,
    fun hlock => ⟨fun source hsource => ?_, ?_⟩⟩⟩
  · exact exec_row_onlyCompletes hf (c := .setMonitor f) rfl (setMonitorCommand_of_refused h _)
  · exact exec_row_onlyCompletes hf (c := .lockMonitor f.counter) rfl (lockMonitorCommand_of_out_of_range h _)
  · exact exec_row_onlyCompletes hf (c := .setMonitor f) rfl
      (setMonitorCommand_of_locked (s := s.beginCommand _) hn hsource hlock)
  · exact exec_row_onlyCompletes hf (c := .lockMonitor f.counter) rfl
      (lockMonitorCommand_of_locked (s := s.beginCommand _) hn hlock)
  · rw [← Counter.set_of_unlocked hlock source f]
    exact exec_row_setCounter hf (c := .setMonitor f) rfl
      (setMonitorCommand_of_unlocked (s := s.beginCommand _) hn hsource hlock)
  · exact exec_row_setCounter hf (c := .lockMonitor f.counter) rfl
      (lockMonitorCommand_of_unlocked (s := s.beginCommand _) hn hlock)

/-! ## CLEAR-TABLES -/

/-- Settles O46: every record of both tables is rewritten, and the reply counts the tributaries left RETIRING. -/
theorem clearTablesEmptiesTables : Obligations.ClearTablesEmptiesTables := by
  intro s hf
  refine ⟨_, exec_row_of_issued hf (c := .clearTables) rfl, fun t => ?_, fun c => ?_, ?_, ⟨?_, ?_, ?_⟩, ?_⟩
  · change State.trib (State.complete _ _ _) t = (s.trib t).emptied
    simp [State.complete, State.trib, State.emptyTables]
  · change State.carrier (State.complete _ _ _) c = (s.carrier c).emptied
    simp [State.complete, State.carrier, State.emptyTables]
  · exact State.completeWith_change _ none _ _
  · exact State.completeWith_events _ none _ _
  · exact State.completeWith_monitor _ none _ _
  · exact State.completeWith_draws _ none _ _
  · have hwork := State.complete_completesWork s (s.beginCommand Command.clearTables.record).emptyTables .done
      [byte (s.beginCommand Command.clearTables.record).emptyTables.retiringCount]
      ⟨rfl, rfl, rfl, rfl, rfl, rfl⟩ rfl rfl rfl rfl
    have htribs : ((s.beginCommand Command.clearTables.record).run .clearTables).tributaries =
      (s.beginCommand Command.clearTables.record).emptyTables.tributaries := State.completeWith_tributaries _ none _ _
    rw [htribs]
    exact hwork

end Sys2Proof.Machine
end

section
/-! SUPPORT. Memory responses and the M-side queue (R116 to R129, R134, R135): the words of an answer, the account of a parent,
stale responses, late arrivals, abandonment, the fetch's failures, and the memory side's taking of a request. -/

namespace Sys2Proof.Machine

/-! ## The account of a parent, field by field (R105, R107, R117 to R119) -/

theorem Parent.usesStore_iff {p : Parent} :
    p.usesStore = true ↔ p.cls = .pass ∧ wellFormedRead p.address p.length = false := by
  simp [Parent.usesStore]

theorem Parent.withWords_eq (p : Parent) (first : Nat) (ws : List Word) :
    p.withWords first ws =
      { p with words := (p.withWords first ws).words, store := if p.usesStore then ws else p.store } := by
  unfold Parent.withWords
  split <;> rfl

theorem Parent.withWords_words_of_store {p : Parent} (h : p.usesStore = true) (first : Nat) (ws : List Word) :
    (p.withWords first ws).words = p.words := by
  rw [Parent.withWords, if_pos h]

theorem Parent.withWords_words_of_buffer {p : Parent} (h : ¬p.usesStore = true) (first : Nat) (ws : List Word) :
    (p.withWords first ws).words = fillWords p.words first ws := by
  rw [Parent.withWords, if_neg h]

theorem length_fillWords (buffer : List (Option Word)) (first : Nat) (ws : List Word) :
    (fillWords buffer first ws).length = buffer.length := by
  simp [fillWords]

/-- An answer that is no fault leaves the status (R117). -/
theorem Parent.answered_of_good {p : Parent} {e : SubRead} {result : MemResult} {words : List Word}
    (h : answerFaults p e result words = false) :
    p.answered e result words = { p with
      words := (p.withWords e.first (answerWords p e words)).words
      store := if p.usesStore then words else p.store
      outstanding := p.outstanding - 1
      state := if p.outstanding ≤ 1 then .complete else p.state } := by
  unfold Parent.answered
  dsimp only
  rw [h, if_neg Bool.false_ne_true, Parent.withWords_eq]
  unfold answerWords
  split <;> rfl

/-- A fault raises the status to ERROR and is counted (R118, R125). -/
theorem Parent.answered_of_fault {p : Parent} {e : SubRead} {result : MemResult} {words : List Word}
    (h : answerFaults p e result words = true) :
    p.answered e result words = { p with
      words := (p.withWords e.first (answerWords p e words)).words
      store := if p.usesStore then words else p.store
      outstanding := p.outstanding - 1
      status := .error
      faults := p.faults + 1
      state := if p.outstanding ≤ 1 then .complete else p.state } := by
  unfold Parent.answered
  dsimp only
  rw [h, if_pos rfl, Parent.withWords_eq, Status.rise_error]
  unfold answerWords
  split <;> rfl

/-- An expiry raises the status to LATE, unless it is ERROR, and is counted (R119, R125). -/
theorem Parent.expired_eq (p : Parent) (e : SubRead) (fill : Word) :
    p.expired e fill = { p with
      words := (p.withWords e.first (List.replicate e.length fill)).words
      store := if p.usesStore then List.replicate e.length fill else p.store
      outstanding := p.outstanding - 1
      late := p.late + 1
      status := if p.status = .error then .error else .late
      state := if p.outstanding ≤ 1 then .complete else p.state } := by
  unfold Parent.expired
  dsimp only
  rw [Parent.withWords_eq, Status.rise_late]
  rfl

/-- The words of an answer for the word buffer are as many as the entry's length, missing ones zero (R117). -/
theorem answerWords_of_buffer {p : Parent} (h : ¬p.usesStore = true) (e : SubRead) (words : List Word) :
    (answerWords p e words).length = e.length ∧
      ∀ n < e.length, (answerWords p e words).getD n 0 = words.getD n 0 := by
  rw [answerWords, if_neg h]
  refine ⟨by simp; omega, fun n hn => ?_⟩
  rcases Nat.lt_or_ge n words.length with hin | hout
  · have htake : n < (words.take e.length).length := by simp; omega
    rw [List.getD_append _ _ _ _ htake, List.getD_eq_getElem _ _ htake, List.getElem_take, List.getD_eq_getElem _ _ hin]
  · have htake : (words.take e.length).length ≤ n := by simp; omega
    rw [List.getD_append_right _ _ _ _ htake, List.getD_replicate _ (by simp; omega), List.getD_eq_default _ _ hout]

/-- The buffer after words have been written into a parent that uses it: the words at the entry's places, and the others as
they stood. -/
theorem Parent.withWords_getElem {p : Parent} (h : ¬p.usesStore = true) (first : Nat) (ws : List Word) :
    (p.withWords first ws).words.length = p.words.length ∧
      ∀ n (hn : n < p.words.length) (hn' : n < (p.withWords first ws).words.length), (p.withWords first ws).words[n] =
        if first ≤ n ∧ n < first + ws.length then some (ws.getD (n - first) 0) else p.words[n] := by
  simp only [Parent.withWords_words_of_buffer h]
  exact ⟨length_fillWords .., fun n hn hn' => fillWords_getElem p.words first ws n hn hn'⟩

/-- The buffer after an answer (R107, R117). -/
theorem Parent.answered_getElem {p : Parent} (h : ¬p.usesStore = true) (e : SubRead) (words : List Word) :
    (p.withWords e.first (answerWords p e words)).words.length = p.words.length ∧
      ∀ n (hn : n < p.words.length) (hn' : n < (p.withWords e.first (answerWords p e words)).words.length),
        (p.withWords e.first (answerWords p e words)).words[n] =
          if e.first ≤ n ∧ n < e.first + e.length then some (words.getD (n - e.first) 0) else p.words[n] := by
  obtain ⟨hlength, hword⟩ := Parent.withWords_getElem h e.first (answerWords p e words)
  obtain ⟨hlen, hget⟩ := answerWords_of_buffer h e words
  refine ⟨hlength, fun n hn hn' => ?_⟩
  rw [hword n hn hn', hlen]
  split
  · rw [hget _ (by omega)]
  · rfl

/-! ## Answers -/

theorem answerFaults_iff {p : Parent} {e : SubRead} {result : MemResult} {words : List Word} :
    answerFaults p e result words = true ↔ result = .fault ∨ (¬p.usesStore = true ∧ words.length < e.length) := by
  simp [answerFaults]

theorem exec_memoryResponse_of_issued {s : State} {k : Fin 64} (hk : (s.sub k).state = .issued) {tag : BitVec 16}
    (htag : TagNames tag k.val (s.sub k).generation false s.response.epoch) (result : MemResult) (words : List Word) :
    exec (.memoryResponse tag result words) s = .next (s.answer k result words) := by
  refine congrArg Host.Outcome.next ((State.takeResponse_names htag).trans ?_)
  rw [hk]

/-- Settles O23: the answer is no fault; the account of the parent, then the release of the entry. -/
theorem goodAnswerFillsParent : Obligations.GoodAnswerFillsParent := by
  intro k tag words s hk htag e p stores hlength
  have hstores : p.usesStore = true ↔ stores := Parent.usesStore_iff
  have hgood : answerFaults p e .good words = false := Bool.eq_false_iff.2 fun h => by
    rcases answerFaults_iff.1 h with hfault | ⟨hbuffer, hshort⟩
    · cases hfault
    · exact absurd (hlength (hbuffer ∘ hstores.2)) (Nat.not_le.2 hshort)
  obtain ⟨hself, hother, hlists, hreleases⟩ := s.answer_spec k .good words
  have hparent : (s.answer k .good words).parent e.parent = p.answered e .good words := hself
  rw [if_neg (Bool.eq_false_iff.1 hgood)] at hreleases
  refine ⟨_, exec_memoryResponse_of_issued hk htag .good words, ?_⟩
  dsimp only
  rw [hparent]
  have hreported : Releases s (faultReported s (p.answered e .good words)) (s.answer k .good words) k := hreleases
  rw [Parent.answered_of_good hgood] at hreported ⊢
  exact ⟨by simp only [hstores], fun h => Parent.withWords_words_of_store (hstores.2 h) _ _,
    fun h => Parent.answered_getElem (h ∘ hstores.1) e words, hother, hlists, s.answer_ready k .good words, hreported⟩

/-- Settles O24: the answer is a fault; the account of the parent, then the release of the entry. -/
theorem faultAnswerRaisesError : Obligations.FaultAnswerRaisesError := by
  intro k tag result words s hk htag e p stores hfaults
  have hstores : p.usesStore = true ↔ stores := Parent.usesStore_iff
  have hfault : answerFaults p e result words = true := answerFaults_iff.2 (by rwa [hstores])
  obtain ⟨hself, hother, hlists, hreleases⟩ := s.answer_spec k result words
  have hparent : (s.answer k result words).parent e.parent = p.answered e result words := hself
  rw [if_pos hfault] at hreleases
  refine ⟨_, exec_memoryResponse_of_issued hk htag result words, ?_⟩
  dsimp only
  rw [hparent]
  have hreported : Releases s (faultReported (s.report ⟨.faultSubreads, 1, e.carrier, e.trib⟩) (p.answered e result words))
    (s.answer k result words) k := hreleases
  rw [Parent.answered_of_fault hfault] at hreported ⊢
  exact ⟨by simp only [hstores], fun h => Parent.withWords_words_of_store (hstores.2 h) _ _,
    fun h => Parent.answered_getElem (h ∘ hstores.1) e words, hother, hlists, s.answer_ready k result words, hreported⟩

/-- Settles O30: the entry becomes EXPIRED, and the account of its parent. -/
theorem subReadExpires : Obligations.SubReadExpires := by
  intro k s hk hdue e p stores fill
  have hstores : p.usesStore = true ↔ stores := Parent.usesStore_iff
  have hexec : exec (.subReadExpiry k) s = .next (s.expireSub k) := by
    refine congrArg Host.Outcome.next (if_pos ?_)
    simp [State.expiryDue, hk, hdue]
  have hfill : s.expiryWord e = fill := rfl
  have hready := s.expireSub_ready k
  have hspec := (s.setSub k { e with state := .expired }).accountParent_spec e.parent (p.expired e fill)
    (some ⟨.lateSubreads, 1, e.carrier, e.trib⟩)
  have hsame : SameForReports (faultReported (s.report ⟨.lateSubreads, 1, e.carrier, e.trib⟩) (p.expired e fill))
      (faultReported ((s.setSub k { e with state := .expired }).reportIf (some ⟨.lateSubreads, 1, e.carrier, e.trib⟩))
        (p.expired e fill)) :=
    State.raiseReadFault_congr _ (State.report_congr _ ⟨rfl, rfl, rfl, rfl, rfl⟩)
  have hstate : s.expireSub k = (s.setSub k { e with state := .expired }).accountParent e.parent (p.expired e fill)
    (some ⟨.lateSubreads, 1, e.carrier, e.trib⟩) := rfl
  refine ⟨_, hexec, ?_⟩
  rw [hstate] at hready ⊢
  generalize (s.setSub k { e with state := .expired }).accountParent e.parent (p.expired e fill)
    (some ⟨.lateSubreads, 1, e.carrier, e.trib⟩) = t at hspec hready ⊢
  obtain ⟨hself, hother, hlists, hsubs, ⟨⟨hevents, hmonitor, hdraws⟩, hqueue⟩, htribs, hcarriers, hchange, hprocessor,
    hresponse, houtputs, hpending, hchannel, -⟩ := hspec
  have hsub : ∀ l, t.sub l = (s.setSub k { e with state := .expired }).sub l := fun l => by unfold State.sub; rw [hsubs]
  have hreports : ReportsAs (faultReported (s.report ⟨.lateSubreads, 1, e.carrier, e.trib⟩) (p.expired e fill)) t :=
    ⟨⟨hevents.trans hsame.events, hmonitor.trans hsame.monitor, hdraws.trans hsame.draws⟩, hqueue.trans hsame.mQueue⟩
  dsimp only
  rw [hself]
  rw [Parent.expired_eq] at hreports ⊢
  refine ⟨by rw [hsub, State.sub_setSub_self], fun l hl => by rw [hsub, State.sub_setSub_ne _ _ _ _ hl],
    by simp only [hstores], fun h => Parent.withWords_words_of_store (hstores.2 h) _ _, fun h => ?_, hother, hlists,
    hready, ⟨htribs, hcarriers, hchange⟩, hprocessor, hresponse, hchannel, houtputs, hpending, hreports⟩
  obtain ⟨hlength, hword⟩ := Parent.withWords_getElem (h ∘ hstores.1) e.first (List.replicate e.length fill)
  refine ⟨hlength, fun n hn hn' => (hword n hn hn').trans ?_⟩
  rw [List.length_replicate]
  split
  · rw [List.getD_replicate _ (by omega)]
  · rfl

/-! ## Late arrivals, abandonment, stale responses -/

/-- A reported release: neither parents, lists nor ready responses move (R120, R121). -/
theorem Reported.release {s r : State} (h : Reported s r) (k : Fin 64) :
    (r.release k).translation.parents = s.translation.parents ∧ (r.release k).translation.lists = s.translation.lists ∧
      (r.release k).translation.ready = s.translation.ready ∧ Releases s r (r.release k) k := by
  obtain ⟨hreleases, hparents, hlists, hready⟩ := State.release_spec s r k (by rw [h.translation]) h.tributaries h.channel
    h.carriers h.change h.processor h.response h.outputs h.pending
  rw [h.translation] at hparents hlists hready
  exact ⟨hparents, hlists, hready, hreleases⟩

/-- Settles O25: the late arrival and the abandonment, each a report and the entry's release. -/
theorem expiredEntryReleased : Obligations.ExpiredEntryReleased := by
  intro k s hk
  refine ⟨fun tag result words htag => ⟨s.lateArrival k, ?_, (report_reported s _).release k⟩,
    fun hdue => ⟨s.abandonSub k, ?_, (raise_reported s _).release k⟩⟩
  · refine congrArg Host.Outcome.next ((State.takeResponse_names htag).trans ?_)
    rw [hk]
  · refine congrArg Host.Outcome.next (if_pos ?_)
    simp [State.abandonDue, hk, hdue]

/-- On the fetch pool a response that does not name the outstanding fetch is stale (R129). -/
theorem State.fetchResponse_of_stale {s : State} {tag : BitVec 16} (h : tagEntry tag ≠ 0 ∨ s.response.fetch.issued = false ∨
    s.response.fetch.generation ≠ tagGeneration tag) (result : MemResult) (words : List Word) :
    s.fetchResponse tag result words = s.staleResponse :=
  if_pos (by simpa using h)

/-- On the translation pool a response to an entry above 63, to a FREE entry or of another generation is stale (R122). -/
theorem State.subResponse_of_stale {s : State} {tag : BitVec 16} (h : 63 < tagEntry tag ∨ ∃ k : Fin 64, k.val = tagEntry tag ∧
    ((s.sub k).state = .free ∨ (s.sub k).generation ≠ tagGeneration tag)) (result : MemResult) (words : List Word) :
    s.subResponse tag result words = s.staleResponse := by
  unfold State.subResponse
  split
  · next hlt =>
    obtain hbig | ⟨k, hk, hstale⟩ := h
    · omega
    · obtain rfl : (⟨tagEntry tag, hlt⟩ : Fin 64) = k := Fin.ext hk.symm
      dsimp only
      split
      · rfl
      · next hsame =>
        obtain hfree | hother := hstale
        · rw [hfree]
        · exact absurd hother hsame
  · rfl

/-- Settles O22: the three ways to be stale, by the pool of the M-tag. -/
theorem staleResponseDiscarded : Obligations.StaleResponseDiscarded := by
  intro tag result words s entry generation hstale
  refine congrArg Host.Outcome.next ?_
  unfold State.takeResponse
  obtain hepoch | ⟨hpool, hstale⟩ | ⟨hpool, hstale⟩ := hstale
  · exact if_pos hepoch
  all_goals
    split
    · rfl
  · exact (if_pos hpool).trans (State.fetchResponse_of_stale hstale result words)
  · exact (if_neg (Bool.eq_false_iff.1 hpool)).trans (State.subResponse_of_stale hstale result words)

/-! ## The fetch's failures -/

/-- A fetch that fails completes its command, and nothing else moves (R128, R129, R151). -/
theorem State.expireFetch_onlyCompletes (s : State) : OnlyCompletes s s.expireFetch .fetchError [] := by
  refine ⟨⟨?_, ?_, ?_⟩, ⟨?_, ?_, ?_⟩, ⟨?_, ?_, ?_, ?_, ?_, ?_⟩, ?_, State.complete_completes s s.freeFetch _ _ rfl rfl rfl rfl rfl⟩
  all_goals simp [State.expireFetch, State.complete, SameLimits]

/-- Settles O27: the failed answer, and the expiry. -/
theorem fetchFailureCompletesFetchError : Obligations.FetchFailureCompletesFetchError := by
  intro s hf
  refine ⟨fun tag result words htag hfails => ⟨s.expireFetch, ?_, s.expireFetch_onlyCompletes⟩,
    fun hdue => ⟨s.expireFetch, ?_, s.expireFetch_onlyCompletes⟩⟩
  · refine congrArg Host.Outcome.next ((State.takeResponse_fetch hf htag).trans (if_neg ?_))
    rintro ⟨rfl, hlength⟩
    obtain hfault | hshort := hfails
    · cases hfault
    · omega
  · refine congrArg Host.Outcome.next (if_pos ?_)
    simp [State.fetchDue, hf, hdue]

/-! ## The memory side -/

theorem MRequest.isForwardedWrite_iff {q : MRequest} :
    q.isForwardedWrite = true ↔ ∃ source address data enables, q = .write .forwarded source address data enables := by
  cases q with
  | read => simp [MRequest.isForwardedWrite]
  | write o => cases o <;> simp [MRequest.isForwardedWrite]

theorem Channel.headIsWrite_iff {c : Channel} : c.headIsWrite = true ↔ ∃ w b others, c.waiting = ⟨.write w, b⟩ :: others := by
  unfold Channel.headIsWrite
  split
  · next h => simp [h]
  · next h => exact ⟨nofun, fun ⟨w, b, o, hw⟩ => absurd hw (h w b o)⟩

/-- A held write is due to be offered again (R134). -/
theorem State.noteForwardLeft_eq (s : State) : s.noteForwardLeft =
    { s with channel := { s.channel with reofferDue := s.channel.reofferDue || s.channel.headIsWrite } } := by
  unfold State.noteForwardLeft
  split <;> simp_all

/-- Settles O21: the request leaves, and the departure of a forwarded write is noted. -/
theorem mSideTakesFrontRequest : Obligations.MSideTakesFrontRequest := by
  intro s q rest hq
  have hexec : exec .mSideRequestTaken s = .next (if q.isForwardedWrite then
      ({ s with mQueue := rest, outputs := { s.outputs with requests := s.outputs.requests ++ [q] } } : State).noteForwardLeft
      else { s with mQueue := rest, outputs := { s.outputs with requests := s.outputs.requests ++ [q] } }) := by
    change execMSideRequestTaken s = _
    rw [execMSideRequestTaken, hq]
  rw [hexec, State.noteForwardLeft_eq]
  refine ⟨_, rfl, ?_⟩
  rw [← MRequest.isForwardedWrite_iff, ← Channel.headIsWrite_iff]
  cases q.isForwardedWrite
  · exact ⟨rfl, by simp⟩
  · exact ⟨rfl, by simp⟩

end Sys2Proof.Machine
end

section
/-! SUPPORT. Deadlines and departures (R99, R108, R109, R114): what happens when nothing is due, the advance of the count as the
rows it takes first, and the response that leaves. -/

namespace Sys2Proof.Machine

/-! ## Nothing before its time (R114, R115) -/

theorem State.takeFetchExpiry_of_not_due {s : State} (h : ¬(s.response.fetch.issued = true ∧
    s.response.microseconds = s.response.fetch.issue + BitVec.ofNat 32 s.response.fetch.interval)) :
    s.takeFetchExpiry = s :=
  if_neg (by simpa [State.fetchDue] using h)

theorem State.takeDeadline_of_not_due {s : State} (h : ¬∃ ch, s.change = some ch ∧ s.response.microseconds = ch.deadline) :
    s.takeDeadline = s := by
  have hdue : s.changeDue = none := by
    unfold State.changeDue
    split
    · next ch hch => exact if_neg fun htime => h ⟨ch, hch, htime⟩
    · rfl
  rw [State.takeDeadline, hdue]

theorem State.takeExpiry_of_not_due {s : State} {k : Fin 64} (h : ¬((s.sub k).state = .issued ∧
    s.response.microseconds = (s.sub k).issue + BitVec.ofNat 32 (s.sub k).interval)) : s.takeExpiry k = s :=
  if_neg (by simpa [State.expiryDue] using h)

theorem State.takeAbandonment_of_not_due {s : State} {k : Fin 64} (h : ¬((s.sub k).state = .expired ∧
    s.response.microseconds = (s.sub k).issue + BitVec.ofNat 32 (8 * (s.sub k).interval))) : s.takeAbandonment k = s :=
  if_neg (by simpa [State.abandonDue] using h)

/-- The deadlines of some entries, one entry after another: its expiry, then its abandonment. -/
def State.takeEntries (s : State) (l : List (Fin 64)) : State :=
  l.foldl (fun s k => (s.takeExpiry k).takeAbandonment k) s

theorem State.takeReached_eq (s : State) :
    s.takeReached = s.takeDeadline.takeFetchExpiry.takeEntries (List.finRange 64) := rfl

theorem State.takeEntries_of_not_due {s : State} (hexpiry : ∀ k, s.takeExpiry k = s)
    (habandon : ∀ k, s.takeAbandonment k = s) (l : List (Fin 64)) : s.takeEntries l = s := by
  induction l with
  | nil => rfl
  | cons k l ih =>
    change ((s.takeExpiry k).takeAbandonment k).takeEntries l = s
    rw [hexpiry, habandon, ih]

/-! ## The count stands while its deadlines are taken -/

theorem State.takeDeadline_microseconds (s : State) : s.takeDeadline.response.microseconds = s.response.microseconds := by
  unfold State.takeDeadline
  split
  · exact (s.applyChange_keeps _ _).microseconds
  · rfl

theorem State.takeFetchExpiry_microseconds (s : State) :
    s.takeFetchExpiry.response.microseconds = s.response.microseconds := by
  unfold State.takeFetchExpiry
  split
  · exact State.completeWith_microseconds ..
  · rfl

theorem State.takeExpiry_microseconds (s : State) (k : Fin 64) :
    (s.takeExpiry k).response.microseconds = s.response.microseconds := by
  unfold State.takeExpiry
  split
  · rw [(s.expireSub_keepsControl k).response]
  · rfl

theorem State.takeAbandonment_microseconds (s : State) (k : Fin 64) :
    (s.takeAbandonment k).response.microseconds = s.response.microseconds := by
  unfold State.takeAbandonment
  split
  · rw [(s.abandonSub_keepsControl k).response]
  · rfl

theorem State.takeEntries_microseconds (s : State) (l : List (Fin 64)) :
    (s.takeEntries l).response.microseconds = s.response.microseconds := by
  induction l generalizing s with
  | nil => rfl
  | cons k l ih => exact (ih _).trans ((State.takeAbandonment_microseconds _ k).trans (s.takeExpiry_microseconds k))

theorem State.takeReached_microseconds (s : State) : s.takeReached.response.microseconds = s.response.microseconds := by
  rw [State.takeReached_eq, State.takeEntries_microseconds, State.takeFetchExpiry_microseconds,
    State.takeDeadline_microseconds]

theorem State.advanceCount_eq (s : State) :
    s.advanceCount = { s with response := { s.response with microseconds := s.response.microseconds + 1 } } := rfl

theorem State.exec_microsecondCountAdvance (s : State) :
    exec .microsecondCountAdvance s = .next s.takeReached.advanceCount := rfl

/-! ## The rows that the advance of the count takes first -/

/-- A row executed on what the rows before it have left. -/
def runRow (o : Host.Outcome State Fault Refusal) (row : Instr) : Host.Outcome State Fault Refusal :=
  match o with
  | .next x => exec row x
  | other => other

theorem foldl_runRow_entries (l : List (Fin 64)) (s : State) :
    (l.flatMap fun k => [Instr.subReadExpiry k, Instr.abandonment k]).foldl runRow (.next s) = .next (s.takeEntries l) := by
  induction l generalizing s with
  | nil => rfl
  | cons k l ih => exact ih ((s.takeExpiry k).takeAbandonment k)

theorem foldl_runRow_reached (s : State) :
    (Instr.deadlineExpiry :: Instr.fetchExpiry ::
      (List.finRange 64).flatMap fun k => [Instr.subReadExpiry k, Instr.abandonment k]).foldl runRow (.next s) =
      .next s.takeReached := by
  rw [List.foldl_cons, List.foldl_cons, State.takeReached_eq]
  exact foldl_runRow_entries _ s.takeDeadline.takeFetchExpiry

/-- Settles O31: each row before its time, the advance of the count with nothing due and with all that is, and the command rows
with no fetch outstanding. -/
theorem nothingHappensBeforeItsTime : Obligations.NothingHappensBeforeItsTime := by
  intro s fetchDue changeDue expiryDue abandonDue
  refine ⟨fun h => congrArg _ (State.takeFetchExpiry_of_not_due h), fun h => congrArg _ (State.takeDeadline_of_not_due h),
    fun k h => congrArg _ (State.takeExpiry_of_not_due h), fun k h => congrArg _ (State.takeAbandonment_of_not_due h),
    fun hfetch hchange hexpiry habandon => ?_, ⟨s.takeReached, ?_, s.takeReached_microseconds,
      by rw [s.exec_microsecondCountAdvance, State.advanceCount_eq, s.takeReached_microseconds]⟩, fun hf c => ?_⟩
  · have hreached : s.takeReached = s := by
      rw [State.takeReached_eq, State.takeDeadline_of_not_due hchange, State.takeFetchExpiry_of_not_due hfetch]
      exact State.takeEntries_of_not_due (fun k => State.takeExpiry_of_not_due (hexpiry k))
        (fun k => State.takeAbandonment_of_not_due (habandon k)) _
    exact congrArg (fun t : State => Host.Outcome.next t.advanceCount) hreached
  · exact foldl_runRow_reached s
  · cases c with
    | _ => exact congrArg Host.Outcome.next (if_neg (Bool.eq_false_iff.1 hf))

/-! ## The departure of a response -/

theorem State.departed_newlyReady_eq_some {s : State} {i j : Fin 32} {src : Source} :
    (s.departed i).translation.newlyReady src = some j ↔
      ((s.departed i).sourceList src).head? = some j ∧ ((s.departed i).parent j).state = .complete ∧
        j ∉ s.translation.ready.tail :=
  (s.departed i).translation.newlyReady_eq_some src j

/-- No response of another source becomes ready by a departure: its first was ready before if it is COMPLETE (R109). -/
theorem State.departed_newlyReady_of_ne {s : State} (h : s.translation.ListsSound) {i : Fin 32} {rest : List (Fin 32)}
    (hr : s.translation.ready = i :: rest) {src : Source} (hsrc : src ≠ (s.parent i).source) :
    (s.departed i).translation.newlyReady src = none := by
  rw [Option.eq_none_iff_forall_not_mem]
  rintro j hj
  obtain ⟨hhead, hcomplete, hnot⟩ := State.departed_newlyReady_eq_some.1 hj
  rw [State.departed_sourceList_ne _ _ hsrc] at hhead
  have hsource := h.queued.source_of_head hhead
  have hji : j ≠ i := fun hji => hsrc (by rw [← hsource, hji])
  rw [State.departed_parent_ne _ hji] at hcomplete
  have hready : j ∈ s.translation.ready := h.mem_ready hsource hcomplete hhead
  rw [hr] at hready hnot
  exact hnot ((List.mem_cons.1 hready).resolve_left hji)

/-- The first entry of a list, if it is COMPLETE. -/
def State.firstIfComplete (s : State) (l : List (Fin 32)) : List (Fin 32) :=
  match l with
  | j :: _ => if (s.parent j).state = .complete then [j] else []
  | [] => []

/-- The next response of the source is ready at once if it is COMPLETE (R109). -/
theorem State.departed_newlyReady_self {s : State} (h : s.translation.ListsSound) {i : Fin 32} {rest : List (Fin 32)}
    (hr : s.translation.ready = i :: rest) :
    ((s.departed i).translation.newlyReady (s.parent i).source).toList =
      s.firstIfComplete (s.sourceList (s.parent i).source).tail := by
  have hlist := h.list_of_ready hr
  have hnodup := h.queued.nodup (s.parent i).source
  have hself := s.departed_sourceList_self i
  have hiff : ∀ j, (s.departed i).translation.newlyReady (s.parent i).source = some j ↔ _ := fun j =>
    State.departed_newlyReady_eq_some
  rw [hself] at hiff
  rw [hlist] at hnodup
  generalize (s.sourceList (s.parent i).source).tail = tl at hlist hnodup hiff
  have hnone : (∀ j, (s.departed i).translation.newlyReady (s.parent i).source ≠ some j) →
      (s.departed i).translation.newlyReady (s.parent i).source = none := fun hn => Option.eq_none_iff_forall_ne_some.2 hn
  cases tl with
  | nil => rw [hnone fun j hj => nomatch ((hiff j).1 hj).1]; rfl
  | cons j tl =>
    have hji : j ≠ i := fun hji => (List.nodup_cons.1 hnodup).1 (hji ▸ List.mem_cons_self ..)
    have hparent := State.departed_parent_ne s hji
    have hnot : j ∉ s.translation.ready.tail := fun hm => by
      obtain ⟨-, hhead⟩ := h.queued.ready j (List.mem_of_mem_tail hm)
      have hsource : (s.parent j).source = (s.parent i).source :=
        ((h.queued.held _ j).1 (hlist ▸ List.mem_cons_of_mem _ (List.mem_cons_self ..))).2
      rw [hsource, hlist] at hhead
      exact hji (Option.some.inj hhead).symm
    unfold State.firstIfComplete
    dsimp only
    split
    · next hcomplete => rw [(hiff j).2 ⟨rfl, hparent ▸ hcomplete, hnot⟩]; rfl
    · next hcomplete =>
      rw [hnone fun l hl => ?_]
      · rfl
      · obtain ⟨hhead, hstate, -⟩ := (hiff l).1 hl
        obtain rfl : j = l := Option.some.inj hhead
        exact hcomplete (hparent ▸ hstate)

theorem State.depart_sourceList (s : State) (i : Fin 32) (src : Source) :
    (s.depart i).sourceList src = (s.departed i).sourceList src := by
  unfold State.sourceList
  rw [State.depart_eq, State.noteFreed_translation]
  rfl

theorem Parent.response_eq (p : Parent) : p.response =
    { source := p.source, tag := p.tag, status := p.status,
      words := if p.cls = .pass ∧ wellFormedRead p.address p.length = false then p.store
        else p.words.map fun w => w.getD 0 } := by
  simp only [Parent.response, Parent.usesStore_iff]

/-- Settles O28: the departure, then the response that it makes ready. -/
theorem readyResponseDeparts : Obligations.ReadyResponseDeparts := by
  intro s i rest hl hr p
  have hexec : exec .responseDeparture s = .next (s.depart i) := by
    change execResponseDeparture s = _
    rw [execResponseDeparture, hr]
  have hself : (s.depart i).sourceList p.source = (s.sourceList p.source).tail :=
    (s.depart_sourceList i _).trans (s.departed_sourceList_self i)
  have hready : (s.depart i).translation.ready = rest ++ ((s.departed i).translation.newlyReady p.source).toList := by
    rw [State.depart_eq, State.noteFreed_translation, ← Translation.filterMap_newlyReady _ _ _
      (fun src hsrc => State.departed_newlyReady_of_ne hl hr hsrc) rfl]
    exact congrArg (· ++ _) ((s.departed_ready i).trans (by rw [hr, List.tail_cons]))
  have hfields : s.depart i = (s.departed i).refreshReady.withChannel
      ⟨s.channel.waiting, s.channel.reofferDue || s.channel.headIsRead⟩ := by
    rw [State.depart_eq, State.noteFreed_eq]
    rfl
  refine ⟨_, hexec, ?_, (s.depart_parent i i).trans (s.departed_parent_self i),
    fun j hj => (s.depart_parent i j).trans (s.departed_parent_ne hj), hself ▸ hl.list_of_ready hr,
    fun src hsrc => (s.depart_sourceList i src).trans (s.departed_sourceList_ne i hsrc), ?_, s.depart_subReads i, ?_⟩
  · rw [hfields, ← Parent.response_eq]
    rfl
  · exact hready.trans (congrArg (rest ++ ·)
      ((State.departed_newlyReady_self hl hr).trans (congrArg s.firstIfComplete hself.symm)))
  · rw [hfields, ← Channel.headIsRead_iff]
    exact ⟨⟨rfl, rfl, rfl⟩, ⟨rfl, rfl, rfl⟩, rfl, rfl, rfl, rfl, rfl, iff_of_eq (Bool.or_eq_true _ _)⟩

end Sys2Proof.Machine
end

section
/-! SUPPORT. The answer of the outstanding fetch (R129, R147 to R149, R182): a command runs alike on every copy of its record, and
what a record spells depends on the bits that its command reads. -/

namespace Sys2Proof.Machine

/-! ## The copy of the record that the command in progress keeps -/

/-- The state with another record, or none, as the command in progress. -/
def State.withRecord (s : State) (o : Option Record) : State := { s with processor := { s.processor with command := o } }

/-- The state whose command in progress, if there is one, has another record. -/
def State.replaceRecord (s : State) (r : Record) : State := s.withRecord (s.processor.command.map fun _ => r)

section Copies

variable (s : State) (o : Option Record) (r : Record)

@[simp] theorem State.withRecord_trib (t : TribId) : (s.withRecord o).trib t = s.trib t := rfl
@[simp] theorem State.withRecord_carrier (c : CarrierId) : (s.withRecord o).carrier c = s.carrier c := rfl
@[simp] theorem State.withRecord_counter (n : Fin 8) : (s.withRecord o).counter n = s.counter n := rfl
@[simp] theorem State.withRecord_events : (s.withRecord o).events = s.events := rfl
@[simp] theorem State.withRecord_limits : (s.withRecord o).processor.limits = s.processor.limits := rfl
@[simp] theorem State.setTrib_withRecord (t : TribId) (x : Tributary) :
    (s.withRecord o).setTrib t x = (s.setTrib t x).withRecord o := rfl
@[simp] theorem State.setCarrier_withRecord (c : CarrierId) (x : Carrier) :
    (s.withRecord o).setCarrier c x = (s.setCarrier c x).withRecord o := rfl
@[simp] theorem State.setCounter_withRecord (n : Fin 8) (x : Counter) :
    (s.withRecord o).setCounter n x = (s.setCounter n x).withRecord o := rfl
@[simp] theorem State.emptyTables_withRecord : (s.withRecord o).emptyTables = s.emptyTables.withRecord o := rfl
@[simp] theorem State.retiringCount_withRecord : (s.withRecord o).retiringCount = s.retiringCount := rfl

@[simp] theorem State.raise_withRecord (e : Event) : (s.withRecord o).raise e = (s.raise e).withRecord o := by
  have h := State.raise_congr e (s := s) (t := s.withRecord o) ⟨rfl, rfl, rfl, rfl, rfl⟩
  rw [(raise_reported (s.withRecord o) e).eq, (raise_reported s e).eq, h.events, h.monitor, h.draws, h.mQueue]
  rfl

theorem ite_replaceRecord (p : Prop) [Decidable p] (a b : State) :
    (if p then a else b).replaceRecord r = if p then a.replaceRecord r else b.replaceRecord r :=
  apply_ite (State.replaceRecord · r) p a b

/-- A completion leaves no command in progress, whatever record it had (R151). -/
@[simp] theorem State.complete_withRecord (code : Completion) (data : List Byte) :
    (s.withRecord o).complete code data = s.complete code data := by
  unfold State.complete State.completeWith
  dsimp only
  split
  · next h => rw [if_pos (show s.processor.done + 1 = s.processor.post from h)]; rfl
  · next h => rw [if_neg (show ¬s.processor.done + 1 = s.processor.post from h)]; rfl

@[simp] theorem State.complete_replaceRecord (code : Completion) (data : List Byte) :
    (s.complete code data).replaceRecord r = s.complete code data := by
  have hnone : (s.complete code data).processor.command = none := State.completeWith_command ..
  rw [State.replaceRecord, hnone, Option.map_none, ← hnone]
  rfl

theorem State.complete_carries (code : Completion) (data : List Byte) :
    (s.withRecord o).complete code data = (s.complete code data).replaceRecord r :=
  (s.complete_withRecord o code data).trans (s.complete_replaceRecord r code data).symm

/-- An admitted change keeps the record of its command (R12). -/
theorem State.admitChange_withRecord {s : State} {r₀ : Record} (h : s.processor.command = some r₀) (kind : ChangeKind)
    (t : TribId) (c : CarrierId) (positions : List Position) :
    (s.withRecord (some r)).admitChange kind t c positions = (s.admitChange kind t c positions).replaceRecord r := by
  have hkept : (s.admitChange kind t c positions).processor.command = some r₀ := h
  rw [State.replaceRecord, hkept]
  rfl

theorem State.settlePositions_withRecord {s : State} {r₀ : Record} (h : s.processor.command = some r₀) (kind : ChangeKind)
    (t : TribId) (c : CarrierId) (own : Option TribId) (pick scatter : Bool) (grains : List Byte) :
    (s.withRecord (some r)).settlePositions kind t c own pick scatter grains =
      (s.settlePositions kind t c own pick scatter grains).replaceRecord r := by
  unfold State.settlePositions
  simp only [State.withRecord_trib, State.withRecord_carrier]
  generalize (if pick then pick? (s.trib t).width scatter own (s.carrier c).map
    else listedPositions? (s.trib t).width grains) = found
  cases found with
  | none => simp
  | some positions =>
    simp only [ite_replaceRecord, State.complete_withRecord, State.complete_replaceRecord, State.admitChange_withRecord r h]

/-- A command runs alike whatever record stands as the command in progress, but that an admitted one keeps it (R12, R151). -/
theorem State.run_withRecord {s : State} {r₀ : Record} (h : s.processor.command = some r₀) (c : Command) :
    (s.withRecord (some r)).run c = (s.run c).replaceRecord r := by
  cases c with
  | attach t =>
    simp only [State.run, attachCommand]
    cases toTrib? t <;> simp [ite_replaceRecord]
  | detach t =>
    simp only [State.run, detachCommand]
    cases toTrib? t <;> simp [ite_replaceRecord]
  | clearCounts t =>
    simp only [State.run, clearCountsCommand]
    cases toTrib? t <;> simp [ite_replaceRecord]
  | place t c =>
    simp only [State.run, placeCommand]
    cases toTrib? t with
    | none => simp
    | some t =>
      cases toCarrier? c with
      | none => simp
      | some c =>
        simp only [ite_replaceRecord, State.withRecord_trib, State.withRecord_carrier, State.complete_withRecord,
          State.complete_replaceRecord, State.settlePositions_withRecord r h]
        rfl
  | regroom t c =>
    simp only [State.run, regroomCommand]
    cases toTrib? t <;> cases toCarrier? c <;> simp [ite_replaceRecord, State.settlePositions_withRecord r h]
  | unplace t c =>
    simp only [State.run, unplaceCommand]
    cases toTrib? t <;> cases toCarrier? c <;> simp [ite_replaceRecord, State.admitChange_withRecord r h]
  | carrierOn c =>
    simp only [State.run, carrierOnCommand]
    cases toCarrier? c <;> simp
  | carrierOff c =>
    simp only [State.run, carrierOffCommand]
    cases toCarrier? c <;> simp [ite_replaceRecord]
  | setLimits f =>
    exact State.complete_carries { s with processor := { s.processor with limits := s.processor.limits.set f } } _ r _ _
  | setNotice f =>
    simp only [State.run, setNoticeCommand]
    cases toKind? f.kind with
    | none => simp
    | some k => exact State.complete_carries { s with events := s.events.noticed k f } _ r _ _
  | mark v => simp [State.run, markCommand]
  | queryTributary t =>
    simp only [State.run, queryTributaryCommand]
    cases toTrib? t <;> simp
  | queryCarrier c =>
    simp only [State.run, queryCarrierCommand]
    cases toCarrier? c <;> simp
  | setMonitor f =>
    simp only [State.run, setMonitorCommand]
    cases toCounter? f.counter <;> cases toSource? f.source <;> simp [ite_replaceRecord]
  | readMonitor n =>
    simp only [State.run, readMonitorCommand]
    cases toCounter? n <;> simp
  | lockMonitor n =>
    simp only [State.run, lockMonitorCommand]
    cases toCounter? n <;> simp [ite_replaceRecord]
  | clearTables => simp [State.run, clearTablesCommand]
  | badCode => simp [State.run, badCodeCommand]

end Copies

/-! ## What a record spells (R149, R182) -/

/-- Two records agree on the bits of each byte that the command reads. -/
def AgreeOnRead (s : State) (c : Command) (r r' : Record) : Prop :=
  ∀ i < 128, recByte r i &&& bitsRead s c i = recByte r' i &&& bitsRead s c i

section Agree

variable {s : State} {c : Command} {r r' : Record} (h : AgreeOnRead s c r r')

include h

theorem AgreeOnRead.byte {i : Nat} (hi : i < 128) (hread : bitsRead s c i = 0xFF) : recByte r i = recByte r' i := by
  have hbits := h i hi
  have hall : (0xFF : Byte) = BitVec.allOnes 8 := rfl
  rwa [hread, hall, BitVec.and_allOnes, BitVec.and_allOnes] at hbits

theorem AgreeOnRead.number {at_ n : Nat} (hn : at_ + n ≤ 128) (hread : ∀ j < n, bitsRead s c (at_ + j) = 0xFF) :
    recNat r at_ n = recNat r' at_ n := by
  unfold recNat
  exact congrArg natOfBytes (List.map_congr_left fun j hj =>
    h.byte (by have := List.mem_range.1 hj; omega) (hread j (List.mem_range.1 hj)))

theorem AgreeOnRead.bit {i j : Nat} {mask : Byte} (hi : i < 128) (hread : bitsRead s c i = mask)
    (hbit : mask.getLsbD j = true) : (recByte r i).getLsbD j = (recByte r' i).getLsbD j := by
  have hsame := congrArg (BitVec.getLsbD · j) (h i hi)
  simpa [hread, hbit] using hsame

theorem AgreeOnRead.flag {j : Nat} {mask : Byte} (hread : bitsRead s c 1 = mask) (hbit : mask.getLsbD j = true) :
    recFlag r j = recFlag r' j :=
  h.bit (by decide) hread hbit

end Agree

/-- A map command with another grain list; any other command as it is. -/
def Command.withGrains (c : Command) (grains : List Byte) : Command :=
  match c with
  | .place t d pick scatter _ => .place t d pick scatter grains
  | .regroom t d pick scatter _ => .regroom t d pick scatter grains
  | other => other

/-- The tributary number of a command that reads it. -/
theorem AgreeOnRead.tributary {s : State} {c : Command} {r r' : Record} (h : AgreeOnRead s c r r')
    (h2 : bitsRead s c 2 = 0xFF) (h3 : bitsRead s c 3 = 0xFF) : recNat r 2 2 = recNat r' 2 2 :=
  h.number (by decide) fun j hj => by
    obtain rfl | rfl : j = 0 ∨ j = 1 := by omega
    · exact h2
    · exact h3

/-- The head of a map command's record is read whether or not its list is (R8). -/
theorem bitsRead_place_head (s : State) (t : BitVec 16) (d : Byte) (pick scatter : Bool) (grains : List Byte) {i : Nat}
    (hi : i < 16) : bitsRead s (.place t d pick scatter grains) i =
      (if i ∈ [0, 2, 3, 4] then 0xFF else 0) ||| (if i = 1 then 0x03 else 0) := by
  simp [bitsRead, Nat.not_le.2 hi]

theorem bitsRead_regroom_head (s : State) (t : BitVec 16) (d : Byte) (pick scatter : Bool) (grains : List Byte) {i : Nat}
    (hi : i < 16) : bitsRead s (.regroom t d pick scatter grains) i =
      (if i ∈ [0, 2, 3, 4] then 0xFF else 0) ||| (if i = 1 then 0x03 else 0) := by
  simp [bitsRead, Nat.not_le.2 hi]

/-- Every command reads the code of its record (R149). -/
theorem bitsRead_code (s : State) (c : Command) : bitsRead s c 0 = 0xFF := by
  cases c with
  | place => exact bitsRead_place_head (hi := by decide) ..
  | regroom => exact bitsRead_regroom_head (hi := by decide) ..
  | _ => rfl

/-- A record that agrees with a command's own on the bits that the command reads spells the command, but for grains that it
does not read (R149, R182). -/
theorem AgreeOnRead.ofRecord {s : State} {c : Command} {r : Record} (hwf : c.wellFormed = true)
    (h : AgreeOnRead s c r c.record) : Command.ofRecord r = Command.withGrains c (grainField r) := by
  have hcode : recByte r 0 = recByte c.record 0 := h.byte (by decide) (bitsRead_code s c)
  have hspelt := Command.ofRecord_record hwf
  cases c with
  | place t d pick scatter grains =>
    have hread : ∀ i < 16, bitsRead s (.place t d pick scatter grains) i = _ := fun i hi =>
      bitsRead_place_head s t d pick scatter grains hi
    rw [← hspelt]
    simp only [Command.ofRecord, hcode, h.tributary (hread 2 (by decide)) (hread 3 (by decide)),
      h.byte (i := 4) (by decide) (hread 4 (by decide)),
      h.flag (j := 0) (mask := 0x03) (hread 1 (by decide)) rfl, h.flag (j := 1) (mask := 0x03) (hread 1 (by decide)) rfl]
    rfl
  | regroom t d pick scatter grains =>
    have hread : ∀ i < 16, bitsRead s (.regroom t d pick scatter grains) i = _ := fun i hi =>
      bitsRead_regroom_head s t d pick scatter grains hi
    rw [← hspelt]
    simp only [Command.ofRecord, hcode, h.tributary (hread 2 (by decide)) (hread 3 (by decide)),
      h.byte (i := 4) (by decide) (hread 4 (by decide)),
      h.flag (j := 0) (mask := 0x03) (hread 1 (by decide)) rfl, h.flag (j := 1) (mask := 0x03) (hread 1 (by decide)) rfl]
    rfl
  | badCode code =>
    have hunknown : code ∉ knownCodes := by simpa [Command.wellFormed, Command.row, Instr.wellFormed] using hwf
    have hfirst : recByte r 0 = code := hcode
    rw [Command.ofRecord_of_unknown (hfirst ▸ hunknown), hfirst]
    rfl
  | attach t w l f =>
    refine Eq.trans ?_ hspelt
    simp only [Command.ofRecord, hcode, h.tributary rfl rfl, h.byte (i := 5) (by decide) rfl,
      h.byte (i := 6) (by decide) rfl, h.byte (i := 7) (by decide) rfl]
    rfl
  | detach | clearCounts | queryTributary =>
    refine Eq.trans ?_ hspelt
    simp only [Command.ofRecord, hcode, h.tributary rfl rfl]
    rfl
  | unplace =>
    refine Eq.trans ?_ hspelt
    simp only [Command.ofRecord, hcode, h.tributary rfl rfl, h.byte (i := 4) (by decide) rfl]
    rfl
  | carrierOn c l =>
    refine Eq.trans ?_ hspelt
    have hlimit : recNat r 8 2 = recNat (Command.carrierOn c l).record 8 2 := h.number (by decide) fun j hj => by interval_cases j <;> rfl
    simp only [Command.ofRecord, hcode, h.byte (i := 4) (by decide) rfl, hlimit]
    rfl
  | carrierOff =>
    refine Eq.trans ?_ hspelt
    simp only [Command.ofRecord, hcode, h.byte (i := 4) (by decide) rfl]
    rfl
  | setLimits f =>
    refine Eq.trans ?_ hspelt
    have henter : recNat r 12 2 = recNat (Command.setLimits f).record 12 2 :=
      h.number (by decide) fun j hj => by interval_cases j <;> rfl
    have hleave : recNat r 14 2 = recNat (Command.setLimits f).record 14 2 :=
      h.number (by decide) fun j hj => by interval_cases j <;> rfl
    have hflag : ∀ j < 6, recFlag r j = recFlag (Command.setLimits f).record j := fun j hj =>
      h.flag (mask := 0x3F) rfl (by interval_cases j <;> rfl)
    simp only [Command.ofRecord, limitFields, hcode, henter, hleave, hflag 0 (by decide), hflag 1 (by decide),
      hflag 2 (by decide), hflag 3 (by decide), hflag 4 (by decide), hflag 5 (by decide),
      h.byte (i := 8) (by decide) rfl, h.byte (i := 9) (by decide) rfl, h.byte (i := 10) (by decide) rfl,
      h.byte (i := 11) (by decide) rfl]
    rfl
  | setNotice f =>
    refine Eq.trans ?_ hspelt
    simp only [Command.ofRecord, noticeFields, hcode, h.flag (j := 0) (mask := 0x01) rfl rfl, h.byte (i := 8) (by decide) rfl,
      h.byte (i := 9) (by decide) rfl, h.byte (i := 10) (by decide) rfl, h.byte (i := 11) (by decide) rfl]
    rfl
  | setMonitor f =>
    refine Eq.trans ?_ hspelt
    have hnote : recNat r 12 4 = recNat (Command.setMonitor f).record 12 4 :=
      h.number (by decide) fun j hj => by interval_cases j <;> rfl
    have hmatch : recNat r 18 2 = recNat (Command.setMonitor f).record 18 2 :=
      h.number (by decide) fun j hj => by interval_cases j <;> rfl
    have hmask : recNat r 20 2 = recNat (Command.setMonitor f).record 20 2 :=
      h.number (by decide) fun j hj => by interval_cases j <;> rfl
    have hcount : recNat r 22 6 = recNat (Command.setMonitor f).record 22 6 :=
      h.number (by decide) fun j hj => by interval_cases j <;> rfl
    have hbit : ∀ j < 3, (recByte r 10).getLsbD j = (recByte (Command.setMonitor f).record 10).getLsbD j := fun j hj =>
      h.bit (mask := 0x07) (by decide) rfl (by interval_cases j <;> rfl)
    simp only [Command.ofRecord, monitorFields, hcode, hnote, hmatch, hmask, hcount, h.byte (i := 8) (by decide) rfl, h.byte (i := 9) (by decide) rfl,
      hbit 0 (by decide), hbit 1 (by decide), hbit 2 (by decide),
      h.byte (i := 16) (by decide) rfl, h.byte (i := 17) (by decide) rfl]
    rfl
  | mark v =>
    refine Eq.trans ?_ hspelt
    have hvalue : recNat r 8 4 = recNat (Command.mark v).record 8 4 := h.number (by decide) fun j hj => by interval_cases j <;> rfl
    simp only [Command.ofRecord, hcode, hvalue]
    rfl
  | queryCarrier =>
    refine Eq.trans ?_ hspelt
    simp only [Command.ofRecord, hcode, h.byte (i := 4) (by decide) rfl, h.byte (i := 8) (by decide) rfl]
    rfl
  | readMonitor | lockMonitor =>
    refine Eq.trans ?_ hspelt
    simp only [Command.ofRecord, hcode, h.byte (i := 8) (by decide) rfl]
    rfl
  | clearTables =>
    refine Eq.trans ?_ hspelt
    simp only [Command.ofRecord, hcode]
    rfl

/-! ## The grains that a command does not read (R8) -/

theorem padTo_congr {n : Nat} {bs bs' : List Byte} (h : ∀ i < n, bs.getD i 0 = bs'.getD i 0) : padTo n bs = padTo n bs' := by
  refine List.ext_getElem (by simp) fun i hi hi' => ?_
  have hin : i < n := by simpa using hi
  have hpad := fun cs : List Byte => getD_padTo n cs i hin
  rw [← List.getD_eq_getElem _ 0 hi, ← List.getD_eq_getElem _ 0 hi', hpad, hpad, h i hin]

/-- Two grain lists that a map command on a tributary of this width takes for one: with PICK set any two, with PICK clear those
that agree at the slots of the width (R8). -/
def SameGrains (s : State) (tributary : BitVec 16) (pick : Bool) (bs bs' : List Byte) : Prop :=
  pick = true ∨ ∀ t, toTrib? tributary = some t → padTo (s.trib t).width bs = padTo (s.trib t).width bs'

section Grains

variable {s : State} {tributary : BitVec 16} {pick : Bool} {bs bs' : List Byte} (h : SameGrains s tributary pick bs bs')

include h

theorem SameGrains.listed {t : TribId} (ht : toTrib? tributary = some t) (hpick : ¬pick = true) :
    listedPositions? (s.trib t).width bs = listedPositions? (s.trib t).width bs' := by
  unfold listedPositions?
  rw [h.resolve_left hpick t ht]

theorem SameGrains.listFails {t : TribId} (ht : toTrib? tributary = some t) :
    listFails (s.trib t) pick bs = listFails (s.trib t) pick bs' := by
  unfold Machine.listFails
  cases pick with
  | true => rfl
  | false => rw [h.listed ht Bool.false_ne_true]

theorem SameGrains.settlePositions {t : TribId} (ht : toTrib? tributary = some t) (kind : ChangeKind) (c : CarrierId)
    (own : Option TribId) (scatter : Bool) :
    s.settlePositions kind t c own pick scatter bs = s.settlePositions kind t c own pick scatter bs' := by
  unfold State.settlePositions
  cases pick with
  | true => rfl
  | false => simp only [h.listed ht Bool.false_ne_true]

theorem SameGrains.place (carrier : Byte) (scatter : Bool) :
    placeCommand tributary carrier pick scatter bs s = placeCommand tributary carrier pick scatter bs' s := by
  unfold placeCommand
  cases ht : toTrib? tributary with
  | none => rfl
  | some t =>
    cases toCarrier? carrier with
    | none => rfl
    | some c => simp only [h.listFails ht, h.settlePositions ht]

theorem SameGrains.regroom (carrier : Byte) (scatter : Bool) :
    regroomCommand tributary carrier pick scatter bs s = regroomCommand tributary carrier pick scatter bs' s := by
  unfold regroomCommand
  cases ht : toTrib? tributary with
  | none => rfl
  | some t =>
    cases toCarrier? carrier with
    | none => rfl
    | some c => simp only [h.listFails ht, h.settlePositions ht]

end Grains

/-- The grain list field of an agreeing record is taken for the command's own (R8, R182). -/
theorem sameGrains_grainField {s : State} {tributary : BitVec 16} {pick : Bool} {grains : List Byte} {r : Record}
    (hlen : grains.length = 64) (h : pick = false → ∀ t, toTrib? tributary = some t →
      ∀ i < 64, i < (s.trib t).width → recByte r (16 + i) = grains.getD i 0) :
    SameGrains s tributary pick (grainField r) grains := by
  cases pick with
  | true => exact .inl rfl
  | false =>
    refine .inr fun t ht => padTo_congr fun i hi => ?_
    have hfield : (grainField r).length = 64 := by simp [grainField]
    rcases Nat.lt_or_ge i 64 with hin | hout
    · rw [← h rfl t ht i hin hi, List.getD_eq_getElem _ _ (hfield ▸ hin)]
      simp [grainField]
    · rw [List.getD_eq_default _ _ (hfield ▸ hout), List.getD_eq_default _ _ (hlen ▸ hout)]

/-- With PICK clear a list's byte is read at each slot of the width (R8). -/
theorem bitsRead_place_list {s : State} {tributary : BitVec 16} {t : TribId} (ht : toTrib? tributary = some t) {i : Nat}
    (hi : i < (s.trib t).width) (d : Byte) (scatter : Bool) (grains : List Byte) :
    bitsRead s (.place tributary d false scatter grains) (16 + i) = 0xFF := by
  have hslot : 16 ≤ 16 + i ∧ 16 + i < 16 + (toTrib? tributary).elim 0 (fun t => (s.trib t).width) := by
    rw [ht, Option.elim_some]
    omega
  have hhead : 16 + i ∉ [0, 2, 3, 4] := by simp; omega
  simp only [bitsRead, if_pos hslot, if_neg hhead, if_neg (show ¬16 + i = 1 by omega)]
  rfl

theorem bitsRead_regroom_list {s : State} {tributary : BitVec 16} {t : TribId} (ht : toTrib? tributary = some t) {i : Nat}
    (hi : i < (s.trib t).width) (d : Byte) (scatter : Bool) (grains : List Byte) :
    bitsRead s (.regroom tributary d false scatter grains) (16 + i) = 0xFF :=
  bitsRead_place_list ht hi d scatter grains

/-- A command runs alike with the grain list field of an agreeing record (R8, R182). -/
theorem AgreeOnRead.run_withGrains {s : State} {c : Command} {r : Record} (hwf : c.wellFormed = true)
    (h : AgreeOnRead s c r c.record) {w : State} (hw : ∀ t, w.trib t = s.trib t) :
    w.run (Command.withGrains c (grainField r)) = w.run c := by
  cases c with
  | place tributary carrier pick scatter grains =>
    have hlen : grains.length = 64 := beq_iff_eq.1 hwf
    refine (sameGrains_grainField hlen fun hpick t ht i hin hi => ?_).place carrier scatter
    subst hpick
    exact (h.byte (by omega) (bitsRead_place_list ht (hw t ▸ hi) carrier scatter grains)).trans
      (recByte_recordOf_grain _ _ _ _ _ _ _ _ _ _ hin)
  | regroom tributary carrier pick scatter grains =>
    have hlen : grains.length = 64 := beq_iff_eq.1 hwf
    refine (sameGrains_grainField hlen fun hpick t ht i hin hi => ?_).regroom carrier scatter
    subst hpick
    exact (h.byte (by omega) (bitsRead_regroom_list ht (hw t ▸ hi) carrier scatter grains)).trans
      (recByte_recordOf_grain _ _ _ _ _ _ _ _ _ _ hin)
  | _ => rfl

/-- The outstanding fetch's answer runs what its record spells (R129, R148). -/
theorem exec_memoryResponse_of_record {s : State} (hf : s.response.fetch.issued = true) {tag : BitVec 16}
    (htag : TagNames tag 0 s.response.fetch.generation true s.response.epoch) {record : Record} (hlen : record.length = 128)
    (more : List Word) :
    exec (.memoryResponse tag .good (wordsOfBytes 8 record ++ more)) s =
      .next ((s.beginCommand record).run (Command.ofRecord record)) := by
  refine congrArg Host.Outcome.next ((State.takeResponse_fetch hf htag).trans ((if_pos ⟨rfl, ?_⟩).trans ?_))
  · rw [recordOfWords_wordsOfBytes _ _ hlen]
  · simp

/-- Settles O26: the answer runs what the record spells, which is the command but for grains that it does not read. -/
theorem fetchAnswerRunsItsCommand : Obligations.FetchAnswerRunsItsCommand := by
  intro c tag more s hwf hf htag
  have hrow := exec_row_of_issued hf hwf
  refine ⟨?_, fun record hlen hagree => ⟨_, _, hrow, exec_memoryResponse_of_record hf htag hlen more, ?_⟩⟩
  · rw [exec_memoryResponse_of_record hf htag c.length_record, Command.ofRecord_record hwf, hrow]
  · have hread : AgreeOnRead s c record c.record := hagree
    have hcopy : s.beginCommand record = (s.beginCommand c.record).withRecord (some record) := rfl
    rw [hread.ofRecord hwf, hread.run_withGrains hwf (w := s.beginCommand record) fun _ => rfl, hcopy,
      State.run_withRecord record (s.beginCommand_command c.record)]
    rfl

end Sys2Proof.Machine
end

section
/-! SUPPORT. PLACE, REGROOM and UNPLACE (R7 to R16): the tests in order, each with its completion code, and admission. -/

namespace Sys2Proof.Machine

/-! ## The listed positions (R8) -/

/-- The numbers that the first w bytes of a grain list hold. -/
def listedNumbers (w : Nat) (grains : List Byte) : List Nat := (List.range w).map fun k => (grains.getD k 0).toNat

theorem listedNumbers_eq (w : Nat) (grains : List Byte) : listedNumbers w grains = (padTo w grains).map BitVec.toNat := by
  refine List.ext_getElem (by simp [listedNumbers]) fun k hk hk' => ?_
  have hin : k < w := by simpa [listedNumbers] using hk
  have hpad : k < (padTo w grains).length := by simpa using hin
  simp only [listedNumbers, List.getElem_map, List.getElem_range]
  rw [← getD_padTo w grains k hin, List.getD_eq_getElem _ _ hpad]

theorem val_of_mapM_toPosition? {bs : List Byte} {ps : List Position} (h : (bs.mapM fun b => toPosition? b.toNat) = some ps) :
    ps.map (fun p => p.val) = bs.map BitVec.toNat := by
  induction bs generalizing ps with
  | nil => cases h; rfl
  | cons b bs ih =>
    rw [List.mapM_cons] at h
    obtain ⟨p, hp, hrest⟩ := Option.bind_eq_some_iff.1 h
    obtain ⟨qs, hqs, hps⟩ := Option.bind_eq_some_iff.1 hrest
    cases hps
    rw [List.map_cons, List.map_cons, ih hqs, toPosition?_eq_some.1 hp]

/-- A listed position list holds the numbers of the list. -/
theorem listedPositions?_val {w : Nat} {grains : List Byte} {ps : List Position} (h : listedPositions? w grains = some ps) :
    ps.map (fun p => p.val) = listedNumbers w grains := by
  unfold listedPositions? at h
  split at h
  · next hq =>
    split at h
    · cases h
      exact (val_of_mapM_toPosition? hq).trans (listedNumbers_eq w grains).symm
    · cases h
  · cases h

/-- A list is taken exactly when its numbers are distinct positions (R8). -/
theorem listedPositions?_isSome_iff {w : Nat} {grains : List Byte} :
    (listedPositions? w grains).isSome = true ↔ (listedNumbers w grains).Nodup ∧ ∀ g ∈ listedNumbers w grains, g < 240 := by
  constructor
  · intro h
    obtain ⟨ps, hps⟩ := Option.isSome_iff_exists.1 h
    rw [← listedPositions?_val hps]
    refine ⟨(listedPositions?_sound hps).1.map Fin.val_injective, fun g hg => ?_⟩
    obtain ⟨p, -, rfl⟩ := List.mem_map.1 hg
    exact p.isLt
  · rintro ⟨hnodup, hrange⟩
    have hvals := map_val_filterMap_toPosition? hrange
    have hdistinct : ((listedNumbers w grains).filterMap toPosition?).Nodup := .of_map (fun p => p.val) (by rwa [hvals])
    have hfound := mapM_toPosition? _ (padTo w grains) (hvals.trans (listedNumbers_eq w grains))
    rw [listedPositions?, hfound]
    exact (congrArg Option.isSome (if_pos hdistinct)).trans rfl

theorem Tributary.hasWidth_iff {tr : Tributary} :
    tr.hasWidth = true ↔ tr.state = .idle ∨ tr.state = .active ∨ tr.state = .silent := by
  unfold Tributary.hasWidth
  cases tr.state <;> decide

/-- Step 2 fails on a list that is looked at and holds no distinct positions (R8). -/
theorem listFails_iff {tr : Tributary} {pick : Bool} {grains : List Byte} : listFails tr pick grains = true ↔
    pick = false ∧ (tr.state = .idle ∨ tr.state = .active ∨ tr.state = .silent) ∧
      ¬((listedNumbers tr.width grains).Nodup ∧ ∀ g ∈ listedNumbers tr.width grains, g < 240) := by
  rw [← listedPositions?_isSome_iff, ← Tributary.hasWidth_iff]
  simp [listFails, and_assoc]

/-! ## Steps 5 to 7 (R7 to R10, R12) -/

/-- A listed position is not free for the change (R8). -/
def GrainTaken (s : State) (t : TribId) (c : CarrierId) (own : Option TribId) (pick : Bool) (grains : List Byte) : Prop :=
  pick = false ∧ ∃ i : Position, i.val ∈ listedNumbers (s.trib t).width grains ∧
    ∃ e, (s.carrier c).map[i] = some e ∧ own ≠ some e.trib

/-- PICK finds no list (R10). -/
def NoPick (s : State) (t : TribId) (c : CarrierId) (own : Option TribId) (pick scatter : Bool) : Prop :=
  pick = true ∧ pick? (s.trib t).width scatter own (s.carrier c).map = none

theorem not_isFree_iff {own : Option TribId} {e : Option MapEntry} :
    isFree own e = false ↔ ∃ x, e = some x ∧ own ≠ some x.trib := by
  cases e <;> simp [isFree]

section Settle

variable {s : State} {kind : ChangeKind} {t : TribId} {c : CarrierId} {own : Option TribId} {pick scatter : Bool}
  {grains : List Byte}

theorem State.settlePositions_of_none (h : NoPick s t c own pick scatter) :
    s.settlePositions kind t c own pick scatter grains = s.complete .noRoom [] := by
  obtain ⟨rfl, hnone⟩ := h
  unfold State.settlePositions
  simp only [if_true, hnone]

theorem State.settlePositions_of_taken {positions : List Position}
    (hfound : listedPositions? (s.trib t).width grains = some positions) (h : GrainTaken s t c own pick grains) :
    s.settlePositions kind t c own pick scatter grains = s.complete .grainTaken [] := by
  obtain ⟨rfl, i, hi, hused⟩ := h
  have hmem : i ∈ positions := by
    rw [← listedPositions?_val hfound] at hi
    obtain ⟨p, hp, hval⟩ := List.mem_map.1 hi
    exact Fin.ext hval ▸ hp
  unfold State.settlePositions
  simp only [Bool.false_eq_true, if_false, hfound]
  refine if_pos ?_
  simp only [Bool.not_false, Bool.true_and, Bool.not_eq_true', List.all_eq_false]
  exact ⟨i, hmem, Bool.eq_false_iff.1 (not_isFree_iff.2 hused)⟩

theorem State.settlePositions_of_costly {positions : List Position}
    (hfound : (if pick then pick? (s.trib t).width scatter own (s.carrier c).map
      else listedPositions? (s.trib t).width grains) = some positions)
    (hfree : pick = false → ∀ p ∈ positions, isFree own (s.carrier c).map[p] = true)
    (hcost : (s.carrier c).costLimit < readCost (changedMap kind t positions (s.carrier c).map)) :
    s.settlePositions kind t c own pick scatter grains = s.complete .costLimit
      (mapReply (readCost (changedMap kind t positions (s.carrier c).map)) (s.carrier c).generation) := by
  unfold State.settlePositions
  simp only [hfound]
  rw [if_neg ?_, if_pos hcost]
  cases pick with
  | true => simp
  | false => simpa using hfree

/-- The outcomes of steps 5 to 7 in order, for a list that step 2 has let pass (R7 to R10, R12). -/
theorem State.settlePositions_outcomes (r : Record)
    (hlist : pick = false → (listedPositions? (s.trib t).width grains).isSome = true) :
    let u := (s.beginCommand r).settlePositions kind t c own pick scatter grains
    (GrainTaken s t c own pick grains → OnlyCompletes s u .grainTaken []) ∧
    (¬GrainTaken s t c own pick grains → NoPick s t c own pick scatter → OnlyCompletes s u .noRoom []) ∧
    (¬GrainTaken s t c own pick grains → ¬NoPick s t c own pick scatter → ∃ positions : List Position,
      (pick = false → positions.map (fun i => i.val) = listedNumbers (s.trib t).width grains) ∧
      (pick = true → pick? (s.trib t).width scatter own (s.carrier c).map = some positions) ∧
      let cost := readCost (changedMap kind t positions (s.carrier c).map)
      ((s.carrier c).costLimit < cost → OnlyCompletes s u .costLimit
        ([BitVec.ofNat 8 cost, 0] ++ leBytes 2 (s.carrier c).generation.toNat)) ∧
      (cost ≤ (s.carrier c).costLimit → ∃ ch, Admits s u r ch ∧ ch.kind = kind ∧ ch.trib = t ∧ ch.carrier = c ∧
        ch.positions = positions)) := by
  intro u
  refine ⟨fun htaken => ?_, fun _ hnone => ?_, fun hnot hsome => ?_⟩
  · obtain ⟨positions, hfound⟩ := Option.isSome_iff_exists.1 (hlist htaken.1)
    have hu : u = (s.beginCommand r).complete .grainTaken [] :=
      State.settlePositions_of_taken (s := s.beginCommand r) hfound htaken
    exact hu ▸ s.complete_beginCommand_onlyCompletes _ _ _
  · have hu : u = (s.beginCommand r).complete .noRoom [] :=
      State.settlePositions_of_none (s := s.beginCommand r) hnone
    exact hu ▸ s.complete_beginCommand_onlyCompletes _ _ _
  · obtain ⟨positions, hfound⟩ : ∃ positions, (if pick then pick? (s.trib t).width scatter own (s.carrier c).map
        else listedPositions? (s.trib t).width grains) = some positions := by
      cases pick with
      | true => exact Option.ne_none_iff_exists'.1 fun hnone => hsome ⟨rfl, hnone⟩
      | false => exact Option.isSome_iff_exists.1 (hlist rfl)
    have hvals : pick = false → positions.map (fun i => i.val) = listedNumbers (s.trib t).width grains := by
      rintro rfl
      exact listedPositions?_val hfound
    have hfree : pick = false → ∀ p ∈ positions, isFree own (s.carrier c).map[p] = true := by
      intro hpick p hp
      by_contra hused
      exact hnot ⟨hpick, p, hvals hpick ▸ List.mem_map_of_mem hp, not_isFree_iff.1 (Bool.eq_false_iff.2 hused)⟩
    refine ⟨positions, hvals, ?_, fun hcost => ?_, fun hcost => ?_⟩
    · rintro rfl
      exact hfound
    · have hu : u = (s.beginCommand r).complete .costLimit
          (mapReply (readCost (changedMap kind t positions (s.carrier c).map)) (s.carrier c).generation) :=
        State.settlePositions_of_costly (s := s.beginCommand r) hfound hfree hcost
      exact hu ▸ s.complete_beginCommand_onlyCompletes _ _ _
    · have hu : u = (s.beginCommand r).admitChange kind t c positions :=
        State.settlePositions_admits hfound hfree hcost
      exact ⟨_, hu ▸ s.admitChange_admits r kind t c positions, rfl, rfl, rfl, rfl⟩

end Settle

/-! ## The tests before steps 5 to 7 (R13, R14) -/

section OutOfRange

variable {tributary : BitVec 16} {carrier : Byte} (h : 1024 ≤ tributary.toNat ∨ 16 ≤ carrier.toNat) (pick scatter : Bool)
  (grains : List Byte) (s : State)

include h

theorem placeCommand_of_out_of_range : placeCommand tributary carrier pick scatter grains s = s.complete .badField [] := by
  unfold placeCommand
  rcases h with ht | hc
  · rw [toTrib?_of_ge ht]
  · rw [toCarrier?_of_ge hc]
    cases toTrib? tributary <;> rfl

theorem regroomCommand_of_out_of_range :
    regroomCommand tributary carrier pick scatter grains s = s.complete .badField [] := by
  unfold regroomCommand
  rcases h with ht | hc
  · rw [toTrib?_of_ge ht]
  · rw [toCarrier?_of_ge hc]
    cases toTrib? tributary <;> rfl

end OutOfRange

theorem Tributary.placementIn_isSome_iff {tr : Tributary} {c : CarrierId} :
    (tr.placementIn c).isSome = true ↔ ∃ q ∈ tr.placements, q.carrier = c := by
  simp [Tributary.placementIn, List.find?_isSome]

/-- The state test of PLACE fails (R13). -/
def PlaceRefused (s : State) (t : TribId) (c : CarrierId) : Prop :=
  (s.carrier c).on = false ∨ ¬((s.trib t).state = .idle ∨ (s.trib t).state = .active ∨ (s.trib t).state = .silent) ∨
    ∃ q ∈ (s.trib t).placements, q.carrier = c

theorem placeRefused_iff {s : State} {t : TribId} {c : CarrierId} : PlaceRefused s t c ↔
    (!(s.carrier c).on || !((s.trib t).state = .idle || (s.trib t).state = .active || (s.trib t).state = .silent)
      || ((s.trib t).placementIn c).isSome) = true := by
  unfold PlaceRefused
  rw [← Tributary.placementIn_isSome_iff]
  simp [or_assoc, and_assoc]

section InRange

variable {tributary : BitVec 16} {carrier : Byte} {t : TribId} {c : CarrierId} (ht : t.val = tributary.toNat)
  (hc : c.val = carrier.toNat) {s : State} {pick : Bool} {grains : List Byte} (scatter : Bool)

include ht hc

theorem placeCommand_of_list_fails (hl : listFails (s.trib t) pick grains = true) :
    placeCommand tributary carrier pick scatter grains s = s.complete .badField [] := by
  rw [placeCommand, toTrib?_of_val ht, toCarrier?_of_val hc]
  exact if_pos hl

theorem placeCommand_of_refused (hl : ¬listFails (s.trib t) pick grains = true) (hr : PlaceRefused s t c) :
    placeCommand tributary carrier pick scatter grains s = s.complete .wrongState [] := by
  rw [placeCommand, toTrib?_of_val ht, toCarrier?_of_val hc]
  exact (if_neg hl).trans (if_pos (placeRefused_iff.1 hr))

theorem placeCommand_of_full (hl : ¬listFails (s.trib t) pick grains = true) (hr : ¬PlaceRefused s t c)
    (hf : 2 ≤ (s.trib t).placements.length) :
    placeCommand tributary carrier pick scatter grains s = s.complete .noRoom [] := by
  rw [placeCommand, toTrib?_of_val ht, toCarrier?_of_val hc]
  exact (if_neg hl).trans ((if_neg (mt placeRefused_iff.2 hr)).trans (if_pos hf))

theorem placeCommand_of_passed (hl : ¬listFails (s.trib t) pick grains = true) (hr : ¬PlaceRefused s t c)
    (hf : ¬2 ≤ (s.trib t).placements.length) :
    placeCommand tributary carrier pick scatter grains s = s.settlePositions .place t c none pick scatter grains := by
  rw [placeCommand, toTrib?_of_val ht, toCarrier?_of_val hc]
  exact (if_neg hl).trans ((if_neg (mt placeRefused_iff.2 hr)).trans (if_neg hf))

theorem regroomCommand_of_list_fails (hl : listFails (s.trib t) pick grains = true) :
    regroomCommand tributary carrier pick scatter grains s = s.complete .badField [] := by
  rw [regroomCommand, toTrib?_of_val ht, toCarrier?_of_val hc]
  exact if_pos hl

theorem regroomCommand_of_not_placed (hl : ¬listFails (s.trib t) pick grains = true)
    (hp : ¬∃ q ∈ (s.trib t).placements, q.carrier = c) :
    regroomCommand tributary carrier pick scatter grains s = s.complete .wrongState [] := by
  rw [← Tributary.placementIn_isSome_iff, Option.not_isSome_iff_eq_none] at hp
  rw [regroomCommand, toTrib?_of_val ht, toCarrier?_of_val hc]
  exact (if_neg hl).trans (if_pos (by rw [hp]; rfl))

theorem regroomCommand_of_placed (hl : ¬listFails (s.trib t) pick grains = true)
    (hp : ∃ q ∈ (s.trib t).placements, q.carrier = c) :
    regroomCommand tributary carrier pick scatter grains s =
      s.settlePositions .regroom t c (some t) pick scatter grains := by
  rw [← Tributary.placementIn_isSome_iff, Option.isSome_iff_ne_none] at hp
  rw [regroomCommand, toTrib?_of_val ht, toCarrier?_of_val hc]
  exact (if_neg hl).trans (if_neg (by simpa using hp))

end InRange

theorem exec_place_of_issued {s : State} (hf : s.response.fetch.issued = true) (tributary : BitVec 16) (carrier : Byte)
    (pick scatter : Bool) (grains : List Byte) : exec (.place tributary carrier pick scatter grains) s =
      .next (placeCommand tributary carrier pick scatter grains
        (s.beginCommand (Command.place tributary carrier pick scatter grains).record)) :=
  congrArg Host.Outcome.next (State.underFetch_issued hf _ _)

theorem exec_regroom_of_issued {s : State} (hf : s.response.fetch.issued = true) (tributary : BitVec 16) (carrier : Byte)
    (pick scatter : Bool) (grains : List Byte) : exec (.regroom tributary carrier pick scatter grains) s =
      .next (regroomCommand tributary carrier pick scatter grains
        (s.beginCommand (Command.regroom tributary carrier pick scatter grains).record)) :=
  congrArg Host.Outcome.next (State.underFetch_issued hf _ _)

/-- A list that is looked at and has not failed is taken (R8). -/
theorem listed_of_not_listFails {tr : Tributary} {pick : Bool} {grains : List Byte} (hl : ¬listFails tr pick grains = true)
    (hw : tr.hasWidth = true) (hpick : pick = false) : (listedPositions? tr.width grains).isSome = true := by
  subst hpick
  simpa [listFails, hw, Option.isSome_iff_ne_none] using hl

/-- A tributary with a placement has a recorded width (R31). -/
theorem Tributary.hasWidth_of_placed {tr : Tributary} {c : CarrierId}
    (h : tr.state = .free ∨ tr.state = .retiring → tr.placements = []) (hp : ∃ q ∈ tr.placements, q.carrier = c) :
    tr.hasWidth = true := by
  obtain ⟨q, hq, -⟩ := hp
  have hnot : ¬(tr.state = .free ∨ tr.state = .retiring) := fun hs => by simp [h hs] at hq
  simpa [Tributary.hasWidth] using hnot

/-- The outcomes of steps 5 to 7 in the words of the statement, for a command that has passed the tests before them. -/
theorem State.settled_outcomes {s : State} {kind : ChangeKind} (hkind : kind ≠ .unplace) {t : TribId} {c : CarrierId}
    {own : Option TribId} {pick scatter : Bool} {grains : List Byte} {r : Record} {u : State}
    (hlist : pick = false → (listedPositions? (s.trib t).width grains).isSome = true)
    (hu : u = (s.beginCommand r).settlePositions kind t c own pick scatter grains) :
    let taken := kind ≠ .unplace ∧ GrainTaken s t c own pick grains
    let noList := kind ≠ .unplace ∧ NoPick s t c own pick scatter
    (taken → OnlyCompletes s u .grainTaken []) ∧ (¬taken → noList → OnlyCompletes s u .noRoom []) ∧
    (¬taken → ¬noList → ∃ positions : List Position,
      (kind ≠ .unplace → pick = false → positions.map (fun i => i.val) = listedNumbers (s.trib t).width grains) ∧
      (kind ≠ .unplace → pick = true → pick? (s.trib t).width scatter own (s.carrier c).map = some positions) ∧
      (kind = .unplace → positions = []) ∧
      let cost := readCost (changedMap kind t positions (s.carrier c).map)
      (kind ≠ .unplace → (s.carrier c).costLimit < cost → OnlyCompletes s u .costLimit
        ([BitVec.ofNat 8 cost, 0] ++ leBytes 2 (s.carrier c).generation.toNat)) ∧
      (kind = .unplace ∨ cost ≤ (s.carrier c).costLimit → ∃ ch, Admits s u r ch ∧ ch.kind = kind ∧ ch.trib = t ∧
        ch.carrier = c ∧ ch.positions = positions)) := by
  obtain ⟨htaken, hnone, hfound⟩ := State.settlePositions_outcomes (s := s) (kind := kind) (t := t) (c := c) (own := own)
    (scatter := scatter) r hlist
  rw [← hu] at htaken hnone hfound
  refine ⟨fun h => htaken h.2, fun h h' => hnone (fun hn => h ⟨hkind, hn⟩) h'.2, fun h h' => ?_⟩
  obtain ⟨positions, hvals, hpick, hcostly, hadmit⟩ := hfound (fun hn => h ⟨hkind, hn⟩) fun hn => h' ⟨hkind, hn⟩
  exact ⟨positions, fun _ => hvals, fun _ => hpick, fun hk => absurd hk hkind, fun _ => hcostly,
    fun hc => hadmit (hc.resolve_left hkind)⟩

/-- Settles O35: the tests of each command, then steps 5 to 7. -/
theorem mapCommandAdmittedOrRefused : Obligations.MapCommandAdmittedOrRefused := by
  intro tributary carrier pick scatter grains kind s command hf
  refine ⟨fun hrange => ?outOfRange, ?inRange⟩
  case outOfRange =>
    cases kind with
    | place =>
      refine ⟨_, exec_place_of_issued hf .., ?_⟩
      rw [placeCommand_of_out_of_range hrange]
      exact s.complete_beginCommand_onlyCompletes _ _ _
    | regroom =>
      refine ⟨_, exec_regroom_of_issued hf .., ?_⟩
      rw [regroomCommand_of_out_of_range hrange]
      exact s.complete_beginCommand_onlyCompletes _ _ _
    | unplace => exact (unplaceAdmitted tributary carrier s hf).1 hrange
  intro t c ht hc tr r usable placed list own badList badState full taken noList hunplaced
  have hlistFails : kind ≠ .unplace → (listFails tr pick grains = true ↔ badList) := fun hkind =>
    listFails_iff.trans ⟨fun h => ⟨hkind, h⟩, fun h => h.2⟩
  cases kind with
  | place =>
    have hbad := hlistFails nofun
    refine ⟨_, exec_place_of_issued hf .., fun hl => ?_, fun hl hr => ?_, fun hl hr hfull => ?_, ?_⟩
    · rw [placeCommand_of_list_fails (s := s.beginCommand _) ht hc scatter (hbad.2 hl)]
      exact s.complete_beginCommand_onlyCompletes _ _ _
    · rw [placeCommand_of_refused (s := s.beginCommand _) ht hc scatter (mt hbad.1 hl) hr]
      exact s.complete_beginCommand_onlyCompletes _ _ _
    · rw [placeCommand_of_full (s := s.beginCommand _) ht hc scatter (mt hbad.1 hl) hr hfull.2]
      exact s.complete_beginCommand_onlyCompletes _ _ _
    · have hsettled := fun (hl : ¬badList) (hr : ¬badState) (hfull : ¬full) =>
        State.settled_outcomes (s := s) (kind := .place) (r := (Command.place tributary carrier pick scatter grains).record) nofun
          (listed_of_not_listFails (mt hbad.1 hl) (Tributary.hasWidth_iff.2 (not_not.1 fun h => hr (.inr (.inl h)))))
          (placeCommand_of_passed (s := s.beginCommand (Command.place tributary carrier pick scatter grains).record) ht hc
            scatter (mt hbad.1 hl) hr fun h => hfull ⟨rfl, h⟩)
      exact ⟨fun hl hr hfull => (hsettled hl hr hfull).1, fun hl hr hfull => (hsettled hl hr hfull).2.1,
        fun hl hr hfull => (hsettled hl hr hfull).2.2⟩
  | regroom =>
    have hbad := hlistFails nofun
    refine ⟨_, exec_regroom_of_issued hf .., fun hl => ?_, fun hl hp => ?_, fun _ _ hfull => absurd hfull.1 nofun, ?_⟩
    · rw [regroomCommand_of_list_fails (s := s.beginCommand _) ht hc scatter (hbad.2 hl)]
      exact s.complete_beginCommand_onlyCompletes _ _ _
    · rw [regroomCommand_of_not_placed (s := s.beginCommand _) ht hc scatter (mt hbad.1 hl) hp]
      exact s.complete_beginCommand_onlyCompletes _ _ _
    · have hsettled := fun (hl : ¬badList) (hp : ¬badState) =>
        State.settled_outcomes (s := s) (kind := .regroom) (r := (Command.regroom tributary carrier pick scatter grains).record) nofun
          (listed_of_not_listFails (mt hbad.1 hl) (Tributary.hasWidth_of_placed hunplaced (not_not.1 hp)))
          (regroomCommand_of_placed (s := s.beginCommand (Command.regroom tributary carrier pick scatter grains).record)
            ht hc scatter (mt hbad.1 hl) (not_not.1 hp))
      exact ⟨fun hl hp _ => (hsettled hl hp).1, fun hl hp _ => (hsettled hl hp).2.1, fun hl hp _ => (hsettled hl hp).2.2⟩
  | unplace =>
    refine ⟨_, exec_unplace_of_issued hf .., fun hl => absurd rfl hl.1, fun _ hp => ?_, fun _ _ hfull => absurd hfull.1 nofun,
      fun _ _ _ htaken => absurd rfl htaken.1, fun _ _ _ _ hnone => absurd rfl hnone.1, fun _ hp _ _ _ => ?_⟩
    · have hnone : (s.trib t).placementIn c = none := Tributary.placementIn_eq_none.2 fun q hq hqc => hp ⟨q, hq, hqc⟩
      rw [unplaceCommand_of_not_placed (s := s.beginCommand _) ht hc hnone]
      exact s.complete_beginCommand_onlyCompletes _ _ _
    · obtain ⟨q, hq, hqc⟩ : placed := not_not.1 hp
      have hsome : (s.trib t).placementIn c ≠ none := fun h => Tributary.placementIn_eq_none.1 h q hq hqc
      rw [unplaceCommand_of_placed (s := s.beginCommand _) ht hc hsome]
      exact ⟨[], fun h => absurd rfl h, fun h => absurd rfl h, fun _ => rfl, fun h => absurd rfl h,
        fun _ => ⟨_, s.admitChange_admits _ .unplace t c [], rfl, rfl, rfl, rfl⟩⟩

/-- The positions of an admitted command, as the search for them finds them (R8, R9). -/
theorem positions_found {w : Nat} {pick scatter : Bool} {own : Option TribId} {m : CarrierMap} {grains : List Byte}
    {positions : List Position} (hlength : positions.length = w)
    (hlisted : pick = false → positions.map (fun p => p.val) = (grains.take w).map BitVec.toNat ∧ positions.Nodup)
    (hpicked : pick = true → pick? w scatter own m = some positions) :
    (if pick then pick? w scatter own m else listedPositions? w grains) = some positions := by
  cases pick with
  | true => exact hpicked rfl
  | false => exact listedPositions?_eq_some hlength (hlisted rfl).1 (hlisted rfl).2

/-- A list whose positions are distinct does not fail step 2 (R8). -/
theorem not_listFails {tr : Tributary} {pick : Bool} {grains : List Byte} {positions : List Position}
    (hlength : positions.length = tr.width)
    (hlisted : pick = false → positions.map (fun p => p.val) = (grains.take tr.width).map BitVec.toNat ∧ positions.Nodup) :
    ¬listFails tr pick grains = true := by
  cases pick with
  | true => simp [listFails]
  | false => simp [listFails, listedPositions?_eq_some hlength (hlisted rfl).1 (hlisted rfl).2]

/-- UNASSIGNED positions are free for any change (R8). -/
theorem free_of_unassigned {positions : List Position} {m : CarrierMap} (h : ∀ p ∈ positions, m[p] = none) :
    ∀ p ∈ positions, isFree none m[p] = true := fun p hp => by
  rw [h p hp]
  rfl

/-- A placement's own positions are free for its REGROOM (R8). -/
theorem free_of_own {positions : List Position} {m : CarrierMap} {t : TribId}
    (h : ∀ p ∈ positions, ∀ e, m[p] = some e → e.trib = t) : ∀ p ∈ positions, isFree (some t) m[p] = true := fun p hp => by
  cases he : m[p] with
  | none => rfl
  | some e => simp [isFree, h p hp e he]

/-- Settles O36: no test of PLACE fails, and steps 5 to 7 let the positions pass. -/
theorem placeAdmitted : Obligations.PlaceAdmitted := by
  intro tributary carrier pick scatter grains s t c positions hf ht hc hon husable hnot hroom hlength hlisted hpicked hcost
  have hlist : pick = false → positions.map (fun p => p.val) = (grains.take (s.trib t).width).map BitVec.toNat ∧
      positions.Nodup := fun hp => ⟨(hlisted hp).1, (hlisted hp).2.1⟩
  have hpass : ¬PlaceRefused s t c := by
    rintro (hoff | hunusable | ⟨q, hq, hqc⟩)
    · exact absurd hoff (by simp [hon])
    · exact hunusable husable
    · exact hnot q hq hqc
  have hfree := fun hp : pick = false => free_of_unassigned (hlisted hp).2.2
  have hcost' : readCost (changedMap .place t positions (s.carrier c).map) ≤ (s.carrier c).costLimit := hcost
  have hadmits := (placeCommand_of_passed (s := s.beginCommand (Command.place tributary carrier pick scatter grains).record)
    ht hc scatter (not_listFails hlength hlist) hpass (Nat.not_le.2 hroom)).trans
    (State.settlePositions_admits (positions_found hlength hlist hpicked) hfree hcost')
  exact ⟨_, _, (exec_place_of_issued hf ..).trans (congrArg Host.Outcome.next hadmits),
    s.admitChange_admits _ .place t c positions, rfl, rfl, rfl, rfl⟩

/-- Settles O37: no test of REGROOM fails, and steps 5 to 7 let the positions pass. -/
theorem regroomAdmitted : Obligations.RegroomAdmitted := by
  intro tributary carrier pick scatter grains s t c positions hf ht hc hplaced hlength hlisted hpicked hcost
  have hlist : pick = false → positions.map (fun p => p.val) = (grains.take (s.trib t).width).map BitVec.toNat ∧
      positions.Nodup := fun hp => ⟨(hlisted hp).1, (hlisted hp).2.1⟩
  have hfree := fun hp : pick = false => free_of_own (hlisted hp).2.2
  have hcost' : readCost (changedMap .regroom t positions (s.carrier c).map) ≤ (s.carrier c).costLimit := hcost
  have hadmits := (regroomCommand_of_placed
    (s := s.beginCommand (Command.regroom tributary carrier pick scatter grains).record) ht hc scatter
    (not_listFails hlength hlist) hplaced).trans
    (State.settlePositions_admits (positions_found hlength hlist hpicked) hfree hcost')
  exact ⟨_, _, (exec_regroom_of_issued hf ..).trans (congrArg Host.Outcome.next hadmits),
    s.admitChange_admits _ .regroom t c positions, rfl, rfl, rfl, rfl⟩

end Sys2Proof.Machine
end

section
/-! SUPPORT. Events and occurrences (R162 to R168, R174 to R177): the record of an event, what a full ring loses, and the counters
that an occurrence reaches. -/

namespace Sys2Proof.Machine

/-! ## The record of an event (Figure 12-11) -/

/-- The code, the carrier, the tributary and the detail of an event's record, kind by kind (Figures 10-1 and 12-11). -/
def Event.fields (e : Event) : Byte × Option CarrierId × Option TribId × List Byte := (e.kind.code, e.carrier, e.trib, e.detail)

theorem Event.length_detail (e : Event) : e.detail.length ≤ 20 := by
  cases e <;> exact Nat.le_of_ble_eq_true rfl

theorem padTo_of_le {n : Nat} {bs : List Byte} (h : bs.length ≤ n) : padTo n bs = bs ++ List.replicate (n - bs.length) 0 := by
  rw [padTo, List.take_of_length_le h]

/-- An event's record in its parts: header, detail and zero bytes. -/
theorem Event.bytes_eq (e : Event) (priority lost : Nat) (stamp : BitVec 32) :
    e.bytes priority lost stamp = [e.kind.code, byte priority, byte lost] ++
      (match e.carrier with
        | some c => [byte c.val]
        | none => [0xFF]) ++
      (match e.trib with
        | some t => leBytes 2 t.val
        | none => [0xFF, 0xFF]) ++ [0, 0] ++ leBytes 4 stamp.toNat ++ e.detail ++
      List.replicate (20 - e.detail.length) 0 := by
  have hcarrier : ∀ o : Option CarrierId, [carrierByte o] = match o with
    | some c => [byte c.val]
    | none => [0xFF] := fun o => by cases o <;> rfl
  have htrib : ∀ o : Option TribId, tribBytes o = match o with
    | some t => leBytes 2 t.val
    | none => [0xFF, 0xFF] := fun o => by cases o <;> rfl
  rw [Event.bytes, padTo_of_le e.length_detail, ← hcarrier, ← htrib]
  simp

/-! ## Losses (R165) -/

theorem le_raiseLost (n : Nat) : n ≤ raiseLost n := by
  unfold raiseLost
  split <;> omega

theorem min_le_raiseLost (n : Nat) : min 255 (n + 1) ≤ raiseLost n := by
  unfold raiseLost
  split <;> omega

theorem raiseLost_eq {n : Nat} (h : n ≤ 255) : raiseLost n = min 255 (n + 1) := by
  unfold raiseLost
  split <;> omega

/-- What raisings leave while the ring is full: the event writer but for its lost count, which does not fall, and the M-side
queue. -/
structure OnlyLoses (s t : State) : Prop where
  events : t.events = { s.events with lost := t.events.lost }
  lost : s.events.lost ≤ t.events.lost
  bounded : s.events.lost ≤ 255 → t.events.lost ≤ 255
  mQueue : t.mQueue = s.mQueue

theorem OnlyLoses.refl (s : State) : OnlyLoses s s := ⟨rfl, le_rfl, id, rfl⟩

theorem OnlyLoses.trans {s t u : State} (h : OnlyLoses s t) (h' : OnlyLoses t u) : OnlyLoses s u := by
  refine ⟨?_, h.lost.trans h'.lost, h'.bounded ∘ h.bounded, h'.mQueue.trans h.mQueue⟩
  rw [h'.events, h.events]

theorem OnlyLoses.full {s t : State} (h : OnlyLoses s t) : t.events.full = s.events.full := by
  rw [h.events]
  rfl

theorem State.loseEvent_onlyLoses (s : State) (o : Occurrence) : OnlyLoses s (s.loseEvent.countOccurrence o) where
  events := rfl
  lost := le_raiseLost _
  bounded h := by
    change raiseLost s.events.lost ≤ 255
    rw [raiseLost_eq h]
    omega
  mQueue := rfl

/-- While the ring is full, raisings only lose events (R165). -/
theorem raiseAll_onlyLoses (fuel : Nat) (es : List Event) {s : State} (h : s.events.full = true) :
    OnlyLoses s (raiseAll fuel es s) := by
  induction fuel generalizing es s with
  | zero => exact .refl s
  | succ fuel ih =>
    cases es with
    | nil => exact .refl s
    | cons e es =>
      unfold raiseAll
      split
      · exact ih es h
      · have hstep := s.loseEvent_onlyLoses (lostOccurrence e)
        exact hstep.trans (ih _ (hstep.full.trans h))

/-- Counting an occurrence leaves the event writer and the queue. -/
theorem State.countOccurrence_onlyLoses (s : State) (o : Occurrence) : OnlyLoses s (s.countOccurrence o) :=
  ⟨rfl, le_rfl, id, rfl⟩

theorem State.report_onlyLoses (o : Occurrence) {s : State} (h : s.events.full = true) : OnlyLoses s (s.report o) :=
  (s.countOccurrence_onlyLoses o).trans (raiseAll_onlyLoses _ _ ((s.countOccurrence_onlyLoses o).full.trans h))

/-! ## Counters (R174, R175) -/

/-- With no wrap to report an occurrence is counted, and nothing else happens (R175, R177). -/
theorem State.report_of_no_wrap {s : State} {o : Occurrence} (h : ∀ n, (s.counter n).reports o = false) :
    s.report o = { s with monitor := (s.countOccurrence o).monitor } := by
  have hwraps : wrapEvents s.draws s.monitor o = [] := by
    have hnone : (List.finRange 8).filter (fun k => s.monitor[k].reports o) = [] :=
      List.filter_eq_nil_iff.2 fun k _ => Bool.eq_false_iff.1 (h k)
    rw [wrapEvents, hnone, orderByKey_nil, List.map_nil]
  rw [State.report, hwraps, raiseAll_nil, State.countOccurrence, hwraps]
  rfl

/-- Raisings move the counters of EVENTS-LOST alone (R165, R174). -/
theorem raiseAll_counter (fuel : Nat) (es : List Event) {s : State} {n : Fin 8}
    (h : (s.counter n).source ≠ some .eventsLost) : (raiseAll fuel es s).counter n = s.counter n := by
  induction fuel generalizing es s with
  | zero => rfl
  | succ fuel ih =>
    cases es with
    | nil => rfl
    | cons e es =>
      unfold raiseAll
      split
      · exact ih es h
      · split
        · have hnot : (s.counter n).admits (lostOccurrence e) = false := by
            simp [Counter.admits, lostOccurrence, h]
          have hstep : (s.loseEvent.countOccurrence (lostOccurrence e)).counter n = s.counter n := by
            rw [State.countOccurrence_counter]
            exact if_neg (Bool.eq_false_iff.1 hnot)
          exact (ih _ (hstep ▸ h)).trans hstep
        · exact ih es h

/-- A counter counts the occurrences of its source that pass its enabled filters (R175). -/
theorem Counter.admits_iff {k : Counter} {o : Occurrence} : k.admits o = true ↔ k.source = some o.kind ∧
    (k.carrierFilter = false ∨ ∃ c, o.carrier = some c ∧ BitVec.ofNat 4 c.val &&& k.carrierMask = k.carrierMatch) ∧
    (k.tribFilter = false ∨ ∃ t, o.trib = some t ∧ BitVec.ofNat 10 t.val &&& k.tribMask = k.tribMatch) := by
  have hpasses : ∀ {w : Nat} {α : Type} (enabled : Bool) (x : Option α) (f : α → BitVec w) (mask matched : BitVec w),
      filterPasses enabled (x.map f) mask matched = true ↔ enabled = false ∨ ∃ a, x = some a ∧ f a &&& mask = matched := by
    intro w α enabled x f mask matched
    cases x <;> simp [filterPasses]
  unfold Counter.admits
  rw [Bool.and_eq_true, Bool.and_eq_true, beq_iff_eq, hpasses, hpasses, and_assoc]

theorem Counter.after_of_admits {k : Counter} {o : Occurrence} (h : k.admits o = true) :
    k.after o = { k with count := BitVec.ofNat 48 (k.count.toNat + o.amount) } := by
  have hsum : k.count + BitVec.ofNat 48 o.amount = BitVec.ofNat 48 (k.count.toNat + o.amount) := by
    rw [BitVec.ofNat_add, BitVec.ofNat_toNat, BitVec.setWidth_eq]
  rw [Counter.after, if_pos h, hsum]

theorem Counter.after_of_not_admits {k : Counter} {o : Occurrence} (h : ¬k.admits o = true) : k.after o = k :=
  if_neg h

theorem Counter.reports_iff {k : Counter} {o : Occurrence} :
    k.reports o = true ↔ k.admits o = true ∧ k.report = true ∧ 2 ^ 48 ≤ k.count.toNat + o.amount := by
  simp [Counter.reports, and_assoc]

/-- Settles O49: the count of each counter, then the reports of the wraps, one after another. -/
theorem occurrenceAddedWhereAdmitted : Obligations.OccurrenceAddedWhereAdmitted := by
  intro o s carrierPasses tribPasses counts
  have hcounts : ∀ k, counts k ↔ k.admits o = true := fun k => Counter.admits_iff.symm
  have hafter : ∀ n : Fin 8,
      (counts (s.counter n) → (s.countOccurrence o).counter n =
        { s.counter n with count := BitVec.ofNat 48 ((s.counter n).count.toNat + o.amount) }) ∧
      (¬counts (s.counter n) → (s.countOccurrence o).counter n = s.counter n) := by
    intro n
    rw [hcounts, State.countOccurrence_counter]
    exact ⟨Counter.after_of_admits, Counter.after_of_not_admits⟩
  refine ⟨fun n hsource => ?_, fun hamount => ?_⟩
  · have hkept : (s.report o).counter n = (s.countOccurrence o).counter n := by
      refine raiseAll_counter _ _ ?_
      rw [State.countOccurrence_counter, Counter.after]
      split <;> exact hsource
    rw [hkept]
    exact hafter n
  · refine ⟨s.countOccurrence o, orderByKey (fun k : Fin 8 => Config.orderKey s.draws k.val)
      ((List.finRange 8).filter fun k => s.monitor[k].reports o), rfl, hafter, ?_, fun n => ?_, fun hfew => ?_, ?_⟩
    · exact (orderByKey_perm _ _).nodup_iff.2 ((List.nodup_finRange 8).filter _)
    · rw [mem_orderByKey, List.mem_filter, hcounts]
      exact ⟨fun h => Counter.reports_iff.1 h.2, fun h => ⟨List.mem_finRange n, Counter.reports_iff.2 h⟩⟩
    · refine if_pos ?_
      rwa [wrapEvents, List.length_map]
    · rw [State.report_eq_foldl s o hamount, wrapEvents, List.foldl_map]
      rfl

/-- Settles O48: the event of a disabled kind, the written one with its record, and the lost one. -/
theorem eventWrittenLostOrDiscarded : Obligations.EventWrittenLostOrDiscarded := by
  intro e s w k
  refine ⟨s.raise_disabled e, fun henabled hroom => ?_, fun henabled hfull => ?_, fun henabled hfull hbounded => ?_⟩
  · intro b fields header record at_
    have hfields : fields = e.fields := by
      cases e with
      | readFault c source tag status late faults address => cases status <;> rfl
      | _ => rfl
    have hrecord : record = e.bytes k.priority w.lost s.response.microseconds := by
      rw [Event.bytes_eq]
      change [fields.1, b k.priority, b w.lost] ++ _ ++ _ ++ [0, 0] ++ _ ++ _ ++ _ = _
      rw [hfields]
      rfl
    have hnotfull : w.full = false := by simpa [EventWriter.full] using hroom
    rw [hrecord, s.raise_written e henabled hnotfull]
    rfl
  · have hlost : w.full = true := by simpa [EventWriter.full] using hfull
    rw [s.raise_lost e henabled hlost]
    have honly := State.report_onlyLoses (lostOccurrence e) (s := s.loseEvent) hlost
    exact ⟨honly.events, (min_le_raiseLost w.lost).trans honly.lost, honly.mQueue⟩
  · have hlost : w.full = true := by simpa [EventWriter.full] using hfull
    intro lost o
    have hlose : s.loseEvent = lost := by
      rw [State.loseEvent, raiseLost_eq hbounded]
    have honly := State.report_onlyLoses o (s := lost) hlost
    rw [s.raise_lost e henabled hlost, hlose]
    refine ⟨rfl, honly.bounded (Nat.min_le_left 255 _), fun hwraps => ?_⟩
    have hcounted := State.report_of_no_wrap (s := lost) (o := o) fun n => by
      by_cases hadmits : (s.counter n).admits o = true
      · by_cases hreport : (s.counter n).report = true
        · have hbelow := hwraps n hadmits hreport
          have hno : ¬2 ^ 48 ≤ (s.counter n).count.toNat + 1 := Nat.not_le.2 hbelow
          exact Bool.eq_false_iff.2 fun h => hno (Counter.reports_iff.1 h).2.2
        · exact Bool.eq_false_iff.2 fun h => hreport (Counter.reports_iff.1 h).2.1
      · exact Bool.eq_false_iff.2 fun h => hadmits (Counter.reports_iff.1 h).1
    have ho : lostOccurrence e = o := rfl
    rw [ho, hcounted]
    refine ⟨rfl, fun n => ?_⟩
    have hcounter : State.counter { lost with monitor := (lost.countOccurrence o).monitor } n = (s.counter n).after o :=
      State.countOccurrence_counter lost o n
    rw [hcounter]
    rfl

end Sys2Proof.Machine
end

section
/-! SUPPORT. Evaluations (R74 to R88): an equation for each step at which an evaluation can end, the lag, S and the drift state
after steps 5 to 8, and what an evaluation does to the state. -/

namespace Sys2Proof.Machine

/-! ## An equation for each end (R75 to R79) -/

section Ends

variable {limits : Limits} {tr : Tributary} {p : Placement}

theorem evaluation_of_fresh (h : p.fresh = true) : evaluation limits tr p = .stop { p with fresh := false } .fresh :=
  if_pos h

theorem evaluation_of_silent (h : p.fresh = false) (hs : tr.state = .silent) :
    evaluation limits tr p = .stop p .silentHold :=
  (if_neg (Bool.eq_false_iff.1 h)).trans (if_pos hs)

theorem evaluation_of_restart (h : p.fresh = false) (hs : tr.state ≠ .silent) (hr : p.restartPending = true) :
    evaluation limits tr p = .stop (recentred tr p) .restart :=
  (if_neg (Bool.eq_false_iff.1 h)).trans ((if_neg hs).trans (if_pos hr))

theorem evaluation_of_silenced (h : p.fresh = false) (hs : tr.state ≠ .silent) (hr : p.restartPending = false)
    (hq : limits.silence ≤ (quieted tr p).quiet) : evaluation limits tr p = .stop (quieted tr p) .silenced :=
  (if_neg (Bool.eq_false_iff.1 h)).trans ((if_neg hs).trans ((if_neg (Bool.eq_false_iff.1 hr)).trans (if_pos hq)))

theorem evaluation_of_advanced (h : p.fresh = false) (hs : tr.state ≠ .silent) (hr : p.restartPending = false)
    (hq : ¬limits.silence ≤ (quieted tr p).quiet) : evaluation limits tr p = advanced limits tr (quieted tr p) :=
  (if_neg (Bool.eq_false_iff.1 h)).trans ((if_neg hs).trans ((if_neg (Bool.eq_false_iff.1 hr)).trans (if_neg hq)))

/-- An evaluation that reaches step 4 declares silence exactly at the silence limit (R79). -/
theorem evaluation_silenced_iff (h : p.fresh = false) (hs : tr.state ≠ .silent) (hr : p.restartPending = false) :
    (evaluation limits tr p).outcome = .silenced ↔ limits.silence ≤ (quieted tr p).quiet := by
  by_cases hq : limits.silence ≤ (quieted tr p).quiet
  · rw [evaluation_of_silenced h hs hr hq]
    exact iff_of_true rfl hq
  · rw [evaluation_of_advanced h hs hr hq]
    exact iff_of_false (advanced_outcome_ne_silenced limits tr (quieted tr p)) hq

end Ends

/-! ## Steps 5 to 8 (R80 to R87) -/

/-- A recentred or slipped placement stands at its target lag (R77, R82, R83). -/
theorem lag_of_target (iw : BitVec 16) {target : Nat} (h : target ≤ 5) : (iw - (iw - BitVec.ofNat 16 target)).toNat = target := by
  have htarget : (BitVec.ofNat 16 target).toNat = target := by
    rw [BitVec.toNat_ofNat]
    omega
  have hcancel : iw - (iw - BitVec.ofNat 16 target) = BitVec.ofNat 16 target := by
    bv_omega
  rw [hcancel, htarget]

theorem slipOf_zero (target : Nat) : slipOf target 0 = some ⟨-(target : Int), 0⟩ := rfl

theorem slipOf_of_ge {target lag : Nat} (h : 7 ≤ lag) : slipOf target lag = some ⟨(lag : Int) - target, lag⟩ :=
  (if_neg (by omega)).trans (if_pos h)

section Advanced

variable {limits : Limits} {tr : Tributary} {p : Placement}

theorem advanced_of_no_slip (h : slipOf tr.targetLag (tr.iw - (p.er + 1)).toNat = none) :
    (advanced limits tr p).slip = none ∧ (advanced limits tr p).outcome = .normal ∧
      (advanced limits tr p).placement.er = p.er + 1 ∧ (advanced limits tr p).lag = (tr.iw - (p.er + 1)).toNat := by
  unfold advanced
  dsimp only
  rw [h]
  exact ⟨rfl, rfl, rfl, rfl⟩

theorem advanced_of_slip {sl : Slip} (h : slipOf tr.targetLag (tr.iw - (p.er + 1)).toNat = some sl) :
    (advanced limits tr p).slip = some sl ∧ (advanced limits tr p).outcome = (if sl.lag = 0 then .repeated else .skipped) ∧
      (advanced limits tr p).placement.er = tr.iw - BitVec.ofNat 16 tr.targetLag ∧
      (advanced limits tr p).lag = tr.targetLag := by
  unfold advanced
  dsimp only
  rw [h]
  exact ⟨rfl, rfl, rfl, rfl⟩

/-- The lag that steps 7 and 8 use is the lag that step 6 leaves (R81 to R83). -/
theorem advanced_lag (limits : Limits) (tr : Tributary) (p : Placement) (ht : tr.targetLag ≤ 5) :
    (advanced limits tr p).lag = (tr.iw - (advanced limits tr p).placement.er).toNat := by
  cases h : slipOf tr.targetLag (tr.iw - (p.er + 1)).toNat with
  | none =>
    obtain ⟨-, -, her, hlag⟩ := advanced_of_no_slip (limits := limits) h
    rw [her, hlag]
  | some sl =>
    obtain ⟨-, -, her, hlag⟩ := advanced_of_slip (limits := limits) h
    rw [her, hlag, lag_of_target _ ht]

/-- After step 6 the lag is 1 to 6 (R81). -/
theorem advanced_lag_range (limits : Limits) (tr : Tributary) (p : Placement) (ht : 2 ≤ tr.targetLag ∧ tr.targetLag ≤ 5) :
    1 ≤ (advanced limits tr p).lag ∧ (advanced limits tr p).lag ≤ 6 := by
  cases h : slipOf tr.targetLag (tr.iw - (p.er + 1)).toNat with
  | none =>
    obtain ⟨-, -, -, hlag⟩ := advanced_of_no_slip (limits := limits) h
    exact hlag ▸ slipOf_eq_none.1 h
  | some sl =>
    obtain ⟨-, -, -, hlag⟩ := advanced_of_slip (limits := limits) h
    omega

/-- Step 7 moves S by an eighth of its distance, rounded toward zero; what it reaches is never negative (R85). -/
theorem smooth_eq (smoothed lag : Nat) :
    (smooth smoothed lag : Int) = smoothed + (256 * (lag : Int) - smoothed).tdiv 8 := by
  have hnonneg : 0 ≤ (smoothed : Int) + (256 * (lag : Int) - smoothed).tdiv 8 := by
    rcases Int.le_total 0 (256 * (lag : Int) - smoothed) with h | h
    · rw [Int.tdiv_eq_ediv_of_nonneg h]
      omega
    · have hneg : (256 * (lag : Int) - smoothed).tdiv 8 = -((smoothed - 256 * (lag : Int)) / 8) := by
        rw [← Int.neg_sub, Int.neg_tdiv, Int.tdiv_eq_ediv_of_nonneg (by omega)]
      rw [hneg]
      omega
  unfold smooth
  rw [Int.toNat_of_nonneg hnonneg]

theorem driftAfter_eq (limits : Limits) (target smoothed : Nat) (before : Drift) :
    driftAfter limits target smoothed before =
      let S : Int := smoothed
      let centre : Int := 256 * target
      match before with
      | .centred => if S < centre - limits.enter then .low else if centre + limits.enter < S then .high else .centred
      | .low => if centre - limits.leave ≤ S then .centred else .low
      | .high => if S ≤ centre + limits.leave then .centred else .high := by
  cases before <;> rfl

end Advanced

/-! ## What an evaluation does to the state (R67, R74, R79, R84, R87) -/

theorem Tributary.evaluated_eq (tr : Tributary) (c : CarrierId) (e : Evaluation) : tr.evaluated c e = tr.afterEvaluation c e := by
  have hsat : ∀ (o o' : Outcome) (n : BitVec 16),
      (if o = o' then saturate n else n) = if o = o' ∧ n ≠ 65535 then n + 1 else n := by
    intro o o' n
    unfold saturate
    by_cases ho : o = o' <;> by_cases hn : n = 65535 <;> simp [ho, hn]
  unfold Tributary.evaluated Tributary.afterEvaluation
  rw [hsat, hsat]

/-- The reports of an evaluation see the tributaries and the bytes of no state. -/
theorem State.reportEvaluation_congr {s w : State} (h : SameForReports s w) (t : TribId) (c : CarrierId) (tr : Tributary)
    (e : Evaluation) : SameForReports (s.withEvaluationReports t c tr e) (w.reportEvaluation t c tr e) := by
  have hsilenced : SameForReports
      (if e.outcome = .silenced then s.raise (.tribSilent t c tr.iw e.placement.er e.placement.quiet) else s)
      (if e.outcome = .silenced then (w.alarmEverywhere t).raise (.tribSilent t c tr.iw e.placement.er e.placement.quiet)
        else w) := by
    split
    · exact State.raise_congr _ ⟨h.events, h.monitor, h.draws, h.mQueue, h.microseconds⟩
    · exact h
  unfold State.withEvaluationReports State.reportEvaluation
  dsimp only
  cases e.slip with
  | none =>
    cases e.moved with
    | none => exact hsilenced
    | some d => cases d <;> exact State.raise_congr _ hsilenced
  | some sl =>
    have hslipped := State.report_congr ⟨.slips, 1, some c, some t⟩ (State.raise_congr (.slip t c sl.size sl.lag) hsilenced)
    cases e.moved with
    | none => exact hslipped
    | some d => cases d <;> exact State.raise_congr _ hslipped

theorem State.reportEvaluation_carriers {s : State} {e : Evaluation} (h : e.outcome ≠ .silenced) (t : TribId) (c : CarrierId)
    (tr : Tributary) : (s.reportEvaluation t c tr e).carriers = s.carriers := by
  unfold State.reportEvaluation
  rw [if_neg h]
  cases e.slip <;> cases e.moved <;> simp

theorem namesTrib_iff_map {t : TribId} {o : Option MapEntry} : namesTrib t o = true ↔ o.map (·.trib) = some t := by
  cases o <;> simp [namesTrib]

/-- Steps 4 to 8 change ER, S, the drift state, the quiet count and the snapshot of the placement record alone. -/
theorem advanced_placement (limits : Limits) (tr : Tributary) {p : Placement} (hf : p.fresh = false)
    (hr : p.restartPending = false) :
    (advanced limits tr (quieted tr p)).placement = { p with
      er := (advanced limits tr (quieted tr p)).placement.er
      smoothed := (advanced limits tr (quieted tr p)).placement.smoothed
      drift := (advanced limits tr (quieted tr p)).placement.drift
      snapshot := tr.iw
      quiet := if tr.iw = p.snapshot then p.quiet + 1 else 0
      fresh := false
      restartPending := false } := by
  cases p
  cases hf
  cases hr
  rfl

/-- What R81 to R83, R85 and R86 ask of an evaluation that goes through step 8, apart from the drift state. -/
theorem advanced_slips (limits : Limits) (tr : Tributary) (p : Placement) (ht : tr.targetLag ≤ 5) :
    let e := advanced limits tr p
    let lag := (tr.iw - (p.er + 1)).toNat
    (1 ≤ lag → lag ≤ 6 → e.slip = none ∧ e.outcome = .normal ∧ e.placement.er = p.er + 1) ∧
    (lag = 0 → e.outcome = .repeated ∧ e.slip = some ⟨-(tr.targetLag : Int), 0⟩ ∧
      e.placement.er = tr.iw - BitVec.ofNat 16 tr.targetLag) ∧
    (7 ≤ lag → e.outcome = .skipped ∧ e.slip = some ⟨(lag : Int) - tr.targetLag, lag⟩ ∧
      e.placement.er = tr.iw - BitVec.ofNat 16 tr.targetLag) ∧
    e.lag = (tr.iw - e.placement.er).toNat ∧
    (e.placement.smoothed : Int) = p.smoothed + (256 * (e.lag : Int) - p.smoothed).tdiv 8 := by
  refine ⟨fun hlow hhigh => ?none, fun hzero => ?back, fun hseven => ?forth, advanced_lag limits tr p ht, smooth_eq _ _⟩
  case none =>
    obtain ⟨hslip, hout, her, -⟩ := advanced_of_no_slip (limits := limits) (slipOf_eq_none.2 ⟨hlow, hhigh⟩)
    exact ⟨hslip, hout, her⟩
  case back =>
    obtain ⟨hslip, hout, her, -⟩ := advanced_of_slip (limits := limits)
      ((congrArg (slipOf tr.targetLag) hzero).trans (slipOf_zero tr.targetLag))
    exact ⟨hout, hslip, her⟩
  case forth =>
    obtain ⟨hslip, hout, her, -⟩ := advanced_of_slip (limits := limits) (slipOf_of_ge (target := tr.targetLag) hseven)
    exact ⟨hout.trans (if_neg (by dsimp only; omega)), hslip, her⟩

/-- Settles O50: the lag and S after an evaluation, where it ends, and what it does to the state. -/
theorem evaluationKeepsLagInRange : Obligations.EvaluationKeepsLagInRange := by
  refine ⟨fun limits tr p hactive htlow hthigh hslow hshigh hfresh => ?ranges, fun limits tr p => ?ends,
    fun s c t p hp => ?state⟩
  case ranges =>
    have hstate : tr.state ≠ .silent := by
      rw [hactive]
      decide
    cases hf : p.fresh with
    | true =>
      rw [evaluation_of_fresh hf]
      refine ⟨fun _ => ?_, hslow, hshigh, nofun, nofun⟩
      have hlag : (tr.iw - p.er).toNat = tr.targetLag := (congrArg _ (congrArg _ (hfresh hf))).trans (lag_of_target _ hthigh)
      change 1 ≤ (tr.iw - p.er).toNat ∧ (tr.iw - p.er).toNat ≤ 6
      omega
    | false =>
      cases hr : p.restartPending with
      | true =>
        rw [evaluation_of_restart hf hstate hr]
        have hlag : (tr.iw - (recentred tr p).er).toNat = tr.targetLag := lag_of_target _ hthigh
        have hS : (recentred tr p).smoothed = 256 * tr.targetLag := rfl
        refine ⟨fun _ => ?_, ?_, ?_, fun _ _ => ⟨rfl, rfl, rfl⟩, nofun⟩
        · change 1 ≤ (tr.iw - (recentred tr p).er).toNat ∧ (tr.iw - (recentred tr p).er).toNat ≤ 6
          omega
        · change 256 ≤ (recentred tr p).smoothed
          omega
        · change (recentred tr p).smoothed ≤ 1536
          omega
      | false =>
        by_cases hq : limits.silence ≤ (quieted tr p).quiet
        · rw [evaluation_of_silenced hf hstate hr hq]
          exact ⟨absurd rfl, hslow, hshigh, nofun, fun _ _ => absurd rfl⟩
        · rw [evaluation_of_advanced hf hstate hr hq]
          obtain ⟨hSlow, hShigh⟩ := advanced_smoothed limits tr (quieted tr p) ⟨htlow, hthigh⟩ ⟨hslow, hshigh⟩
          obtain ⟨hnone, hback, hforth, hlag, hsmooth⟩ := advanced_slips limits tr (quieted tr p) hthigh
          refine ⟨fun _ => ?_, hSlow, hShigh, nofun, fun _ _ _ =>
            ⟨hnone, hback, hforth, hlag, hsmooth, driftAfter_eq limits tr.targetLag _ p.drift, rfl,
              advanced_placement limits tr hf hr⟩⟩
          rw [← hlag]
          exact advanced_lag_range limits tr (quieted tr p) ⟨htlow, hthigh⟩
  case ends =>
    refine ⟨fun hf => ?_, fun hf hs => ?_, fun hf hs hr => ?_, fun hf hs hr => ⟨evaluation_silenced_iff hf hs hr, fun hq => ?_⟩⟩
    · rw [evaluation_of_fresh hf]
      exact ⟨rfl, rfl, rfl, rfl⟩
    · rw [evaluation_of_silent hf hs]
      exact ⟨rfl, rfl, rfl, rfl⟩
    · rw [evaluation_of_restart hf hs hr]
      exact ⟨rfl, ⟨rfl, rfl⟩, rfl⟩
    · rw [evaluation_of_silenced hf hs hr hq]
      exact ⟨rfl, rfl, rfl⟩
  case state =>
    have hkeeps := s.evaluate_keeps c t
    refine ⟨(State.evaluate_trib_self hp).trans (Tributary.evaluated_eq ..), fun x hx => State.evaluate_trib_ne s c hx,
      fun hout => ?same, fun hout d => ⟨hkeeps.carrier d, fun i => ?byte⟩, hkeeps.change,
      ⟨hkeeps.translation, congrArg _ hkeeps.response, congrArg _ hkeeps.response, hkeeps.channel, hkeeps.outputs,
        hkeeps.pending⟩, ⟨hkeeps.processor, congrArg _ hkeeps.response⟩, ?reports⟩
    case same =>
      rw [State.evaluate_of_some hp, State.reportEvaluation_carriers hout]
      exact State.setTrib_carriers ..
    case byte =>
      rw [State.evaluate_carrier_of_some hp, if_pos hout, alarmPositions_getElem]
      simp only [namesTrib_iff_map]
    case reports =>
      rw [State.evaluate_of_some hp]
      have hsame := State.reportEvaluation_congr (s := s)
        (w := s.setTrib t ((s.trib t).evaluated c (evaluation s.processor.limits (s.trib t) p))) ⟨rfl, rfl, rfl, rfl, rfl⟩ t c
        (s.trib t) (evaluation s.processor.limits (s.trib t) p)
      exact ⟨⟨hsame.events, hsame.monitor, hsame.draws⟩, hsame.mQueue⟩

end Sys2Proof.Machine
end

section
/-! SUPPORT. Re-offers (R98, R99, R134): the head offered again, whatever the channel says, and the requests behind it. -/

namespace Sys2Proof.Machine

variable {s : State}

theorem exec_heldReadReoffer (hread : s.channel.headIsRead = true) (hdue : s.channel.reofferDue = true) :
    exec .heldReadReoffer s = .next (s.offerAll s.channel.waiting) := by
  change Host.Outcome.next (if s.channel.headIsRead && s.channel.reofferDue then s.offerAll s.channel.waiting else s) = _
  rw [hread, hdue]
  rfl

theorem exec_heldReadReoffer_of_not_due (hdue : s.channel.reofferDue = false) : exec .heldReadReoffer s = .next s := by
  change Host.Outcome.next (if s.channel.headIsRead && s.channel.reofferDue then s.offerAll s.channel.waiting else s) = _
  rw [hdue, Bool.and_false]
  rfl

theorem exec_heldWriteReoffer (hwrite : s.channel.headIsWrite = true) (hdue : s.channel.reofferDue = true) :
    exec .heldWriteReoffer s = .next (s.offerAll s.channel.waiting) := by
  change Host.Outcome.next (if s.channel.headIsWrite && s.channel.reofferDue then s.offerAll s.channel.waiting else s) = _
  rw [hwrite, hdue]
  rfl

theorem exec_heldWriteReoffer_of_not_due (hdue : s.channel.reofferDue = false) : exec .heldWriteReoffer s = .next s := by
  change Host.Outcome.next (if s.channel.headIsWrite && s.channel.reofferDue then s.offerAll s.channel.waiting else s) = _
  rw [hdue, Bool.and_false]
  rfl

/-- The requests behind an accepted head are offered in turn (R134). -/
theorem State.offerAll_of_accepted {t : State} {h : Held} {rest : List Held} (hoffer : s.offer h = (t, true)) :
    s.offerAll (h :: rest) = t.offerAll rest := by
  rw [State.offerAll, hoffer]

/-- A head that is not accepted stays held, the others behind it (R134). -/
theorem State.offerAll_of_held {t : State} {h : Held} {rest : List Held} (hoffer : s.offer h = (t, false)) :
    s.offerAll (h :: rest) = { t with channel := ⟨h.held :: rest, false⟩ } := by
  rw [State.offerAll, hoffer]

/-- A write outside the carrier window is forwarded and noted, or held at a full queue (R134). -/
theorem State.offerWrite_of_outside {w : UWrite} (hr : region w.address ≠ .window) :
    s.offerWrite w = if s.forwardedWrites < 32 then ((s.forwardWrite w).noteWrite w, true) else (s, false) := if_neg hr

/-- A forwarded write joins the queue first; the records that its reports write come behind it (log entry 23). -/
theorem State.forwardWrite_noteWrite_mQueue (s : State) (w : UWrite) : ∃ ws, ((s.forwardWrite w).noteWrite w).mQueue =
    s.mQueue ++ .write .forwarded w.source w.address w.data w.enables :: ws := by
  obtain ⟨ws, hqueue, -⟩ := (s.forwardWrite_reported w).queueGrows.trans (State.noteWrite_queueGrows _ w)
  refine ⟨ws, hqueue.trans ?_⟩
  change (s.mQueue ++ [_]) ++ ws = _
  rw [List.append_assoc]
  rfl

/-- Settles O20: the write is accepted as at a free channel, and the others are offered. -/
theorem heldWriteReoffered : Obligations.HeldWriteReoffered := by
  intro w b rest s hw hr
  have hhead : s.channel.headIsWrite = true := Channel.headIsWrite_iff.2 ⟨w, b, rest, hw⟩
  refine ⟨fun hdue hroom => ?accepted, fun hdue hfull => ?held, exec_heldWriteReoffer_of_not_due⟩
  case accepted =>
    have hoffer : s.offer ⟨.write w, b⟩ = ((s.forwardWrite w).noteWrite w, true) :=
      (State.offerWrite_of_outside hr).trans (if_pos hroom)
    obtain ⟨ws, hqueue⟩ := State.forwardWrite_noteWrite_mQueue s w
    refine ⟨((s.forwardWrite w).noteWrite w).withChannel ⟨[], false⟩, ws, ?_, ?_, rfl, hqueue⟩
    · rw [exec_requestRow]
      have hpresent := State.present_write (s := s.withChannel ⟨[], false⟩) (w := w) rfl hr hroom
      rw [State.forwardWrite_withChannel, State.noteWrite_withChannel] at hpresent
      exact congrArg _ hpresent
    · rw [exec_heldWriteReoffer hhead hdue, hw, State.offerAll_of_accepted hoffer, State.offerAll_withChannel]
  case held =>
    have hoffer : s.offer ⟨.write w, b⟩ = (s, false) := (State.offerWrite_of_outside hr).trans (if_neg (Nat.not_lt.2 hfull))
    rw [exec_heldWriteReoffer hhead hdue, hw, State.offerAll_of_held hoffer]
    exact congrArg Host.Outcome.next rfl

/-- A read that is accepted stands in the entry it took, with its own tag, source and address (R94). -/
theorem State.acceptRead_opens (s : State) (i : Fin 32) (r : URead) :
    ((s.acceptRead i r).parent i).state ≠ .free ∧ ((s.acceptRead i r).parent i).tag = r.tag ∧
      ((s.acceptRead i r).parent i).source = r.source ∧ ((s.acceptRead i r).parent i).address = r.address := by
  obtain ⟨cls, c, words, status, n, hparent, -⟩ := s.acceptRead_parent i r
  rw [hparent, (State.openParent_parent ..).1]
  refine ⟨?_, rfl, rfl, rfl⟩
  unfold parentEntry
  dsimp only
  split <;> decide

theorem State.headIsRead_of_waiting {r : URead} {b : Bool} {rest : List Held} (hw : s.channel.waiting = ⟨.read r, b⟩ :: rest) :
    s.channel.headIsRead = true := (Channel.headIsRead_iff _).2 ⟨r, b, rest, hw⟩

/-- Settles O19: the read is taken as at a free channel, or held as it stands; its ACCEPT-WAITS comes once. -/
theorem heldReadReoffered : Obligations.HeldReadReoffered := by
  intro r b rest s hw u o needed
  have hhead : s.channel.headIsRead = true := State.headIsRead_of_waiting hw
  have hneeded : o.subReadsNeeded r = needed := by
    rw [State.subReadsNeeded_eq, State.whenOffered_carrier_on]
  refine ⟨fun hdue hfree henough => ?accepted, fun hdue hnone => ?noParent, fun hdue hfree hfew => ?noSubs,
    exec_heldReadReoffer_of_not_due⟩
  case accepted =>
    obtain ⟨i, hi⟩ := State.exists_freeParent? hfree
    have hoffer : ∀ b, s.offerRead r b = (o.acceptRead i r, true) := fun b => by
      rw [State.offerRead_spec s r b i hi, if_pos (hneeded.symm ▸ henough)]
    obtain ⟨hnotFree, htag, hsource, haddress⟩ := o.acceptRead_opens i r
    refine ⟨(o.acceptRead i r).withChannel ⟨[], false⟩, ?_, ?_, rfl, i, ?_, hnotFree, htag, hsource, haddress⟩
    · have hpresent := State.present_read (s := s.withChannel ⟨[], false⟩) (r := r) rfl
      rw [State.offerRead_withChannel, hoffer] at hpresent
      rw [exec_requestRow]
      exact congrArg _ hpresent
    · rw [exec_heldReadReoffer hhead hdue, hw, State.offerAll_of_accepted (h := ⟨.read r, b⟩) (hoffer b), State.offerAll_withChannel]
    · exact of_decide_eq_true (lowest?_spec hi).1
  case noParent =>
    rw [exec_heldReadReoffer hhead hdue, hw, State.offerAll_of_held (h := ⟨.read r, b⟩) (State.offerRead_of_no_parent hnone b)]
    exact congrArg Host.Outcome.next rfl
  case noSubs =>
    obtain ⟨i, hi⟩ := State.exists_freeParent? hfree
    have hoffer : s.offerRead r b = (if b then o else o.waitReported r, false) := by
      rw [State.offerRead_spec s r b i hi, if_neg (Nat.not_le.2 (hneeded.symm ▸ hfew))]
    rw [exec_heldReadReoffer hhead hdue, hw, State.offerAll_of_held (h := ⟨.read r, b⟩) hoffer]
    exact congrArg Host.Outcome.next rfl

end Sys2Proof.Machine
end

section
/-! SUPPORT. The application of a pending change (R17 to R23): its completion with the picked list, its effects on the tables, and
the indication bytes that it writes at its deadline. -/

namespace Sys2Proof.Machine

/-! ## The completion of an admitted command (R10, R143, R151) -/

/-- The grain list words that an admitted PICK command writes back. -/
def grainWrites (done : BitVec 16) (grains : Option (List Position)) : List MRequest :=
  match grains with
  | some ps => (grainWords ps).mapIdx fun i w => ownWrite (recordAddr done + BitVec.ofNat 32 (16 + 16 * i)) w
  | none => []

theorem completionWrites_eq (done : BitVec 16) (grains : Option (List Position)) (code : Completion) (data : List Byte) :
    completionWrites done grains code data = grainWrites done grains ++ completionWrites done none code data := by
  cases grains <;> simp [completionWrites, grainWrites]

theorem grainWrites_some (done : BitVec 16) (ps : List Position) :
    grainWrites done (some ps) = (List.range 4).map fun i =>
      ownWrite (recordAddr done + BitVec.ofNat 32 (16 + 16 * i))
        (wordOfBytes (((padTo 64 (ps.map fun p => BitVec.ofNat 8 p.val)).drop (16 * i)).take 16)) := by
  simp [grainWrites, grainWords, wordsOfBytes, List.range_succ, List.mapIdx_cons, byte]

/-- What a completion does, its grain list words before its reply (R10, R151). -/
theorem State.completeWith_completes (s w : State) (grains : Option (List Position)) (code : Completion) (data : List Byte)
    (hprocessor : w.processor = s.processor) (hresponse : w.response = s.response)
    (hissued : s.response.fetch.issued = false) :
    Completes s (w.completeWith grains code data) (w.mQueue ++ grainWrites s.processor.done grains) code data := by
  have hfetch : s.response.fetch = { s.response.fetch with issued := false } := by rw [← hissued]
  unfold Completes State.completeWith
  rw [completionWrites_eq _ grains]
  dsimp only
  rw [hprocessor]
  split
  · exact ⟨rfl, rfl, rfl, rfl, by rw [← hfetch, ← hresponse], by rw [List.append_assoc]⟩
  · refine ⟨rfl, rfl, rfl, rfl, ?_, ?_⟩
    · rw [← hresponse]; rfl
    · rw [← hresponse, List.append_assoc w.mQueue]; rfl

/-- The code of an application (R17, R18). -/
def ApplyAt.code : ApplyAt → Completion
  | .cycleStart => .done
  | .expiry => .appliedLate

theorem pickedList_eq (command : Option Record) (ch : PendingChange) :
    ((ch.kind ≠ .unplace ∧ ∃ record, command = some record ∧ recFlag record 0 = true) →
      pickedList command ch = some ch.positions) ∧
    (¬(ch.kind ≠ .unplace ∧ ∃ record, command = some record ∧ recFlag record 0 = true) → pickedList command ch = none) := by
  unfold pickedList
  cases command with
  | none => simp
  | some r => cases hf : recFlag r 0 <;> cases hk : ch.kind <;> simp [hf]

/-- The application of a pending change as R17 to R22 tell it. -/
theorem State.applyChange_applies {s : State} {ch : PendingChange} (h : s.ProcessorSound) (hc : s.change = some ch)
    (a : ApplyAt) : Applies s (s.applyChange ch a) ch a.code (a == .cycleStart) where
  change := s.applyChange_change ch a
  carrier := by
    rw [State.applyChange_carrier, if_pos rfl]
    cases a <;> rfl
  carriers d hd := by rw [State.applyChange_carrier, if_neg hd]
  tribs x hx := by rw [State.applyChange_trib, if_neg hx]
  place hk := by
    rw [State.applyChange_trib, if_pos rfl, hk]
    rfl
  regroom hk := by
    rw [State.applyChange_trib, if_pos rfl, hk]
    rfl
  unplace hk := by
    rw [State.applyChange_trib, if_pos rfl, hk]
    simp [Tributary.applied]
  reporting := ⟨s.applyChange_events ch a, State.completeWith_monitor .., State.completeWith_draws ..⟩
  surroundings :=
    have hkeeps := s.applyChange_keeps ch a
    ⟨hkeeps.translation, hkeeps.microseconds, hkeeps.epoch, hkeeps.channel, hkeeps.outputs, hkeeps.pending⟩
  limits := (s.applyChange_keeps ch a).limits
  completes := by
    obtain ⟨hpicked, hnot⟩ := pickedList_eq s.processor.command ch
    refine ⟨grainWrites s.processor.done (pickedList s.processor.command ch), fun hp => ?_, fun hp => ?_, ?_⟩
    · rw [hpicked hp, grainWrites_some]
    · rw [hnot hp]
      rfl
    · have hcompletes := State.completeWith_completes s (s.rewriteMap ch a) (pickedList s.processor.command ch) a.code
        (mapReply ((s.rewriteMap ch a).carrier ch.carrier).cost ((s.rewriteMap ch a).carrier ch.carrier).generation)
        rfl rfl (h.issued_of_change hc)
      have hcarrier : (s.applyChange ch a).carrier ch.carrier = (s.rewriteMap ch a).carrier ch.carrier :=
        State.completeWith_carrier ..
      rw [hcarrier]
      cases a <;> exact hcompletes

/-! ## The deadline (R18, R23) -/

theorem exec_deadlineExpiry {s : State} {ch : PendingChange} (hc : s.change = some ch)
    (hdue : s.response.microseconds = ch.deadline) : exec .deadlineExpiry s = .next (s.applyChange ch .expiry) := by
  have hchange : s.changeDue = some ch := by
    rw [State.changeDue, hc]
    exact if_pos hdue
  change Host.Outcome.next (match s.changeDue with
    | some ch => s.applyChange ch .expiry
    | none => s) = _
  rw [hchange]

/-- A byte is REPEAT, SKIP or RESTART, and a position of tributary t shows it (R23). -/
def Carrier.Shows (r : Carrier) (t : TribId) (byte : Indication) : Prop :=
  (byte = .repeated ∨ byte = .skipped ∨ byte = .restart) ∧
    ∃ (j : Fin 240) (e : MapEntry), r.map[j] = some e ∧ e.trib = t ∧ r.indications[j] = byte

theorem mem_zip_toList {r : Carrier} {o : Option MapEntry} {byte : Indication} :
    (o, byte) ∈ r.map.toList.zip r.indications.toList ↔ ∃ j : Fin 240, r.map[j] = o ∧ r.indications[j] = byte := by
  rw [List.mem_iff_getElem]
  constructor
  · rintro ⟨j, hj, hget⟩
    have hlt : j < 240 := by simpa using hj
    rw [List.getElem_zip, Prod.mk.injEq] at hget
    exact ⟨⟨j, hlt⟩, hget⟩
  · rintro ⟨j, hmap, hbyte⟩
    refine ⟨j.val, by simp, ?_⟩
    rw [List.getElem_zip, Prod.mk.injEq]
    exact ⟨hmap, hbyte⟩

theorem heldTest_iff {t : TribId} {o : Option MapEntry} {byte : Indication} :
    (namesTrib t o && (byte == .repeated || byte == .skipped || byte == .restart)) = true ↔
      (∃ e, o = some e ∧ e.trib = t) ∧ (byte = .repeated ∨ byte = .skipped ∨ byte = .restart) := by
  rw [Bool.and_eq_true, namesTrib_eq_true]
  simp only [Bool.or_eq_true, beq_iff_eq, or_assoc]

theorem heldOutcome_eq_some {t : TribId} {r : Carrier} {byte : Indication} (h : heldOutcome t r = some byte) : r.Shows t byte := by
  unfold heldOutcome at h
  obtain ⟨⟨o, b⟩, hfind, rfl⟩ := Option.map_eq_some_iff.1 h
  have htest := List.find?_some hfind
  obtain ⟨⟨e, rfl, htrib⟩, hbyte⟩ := (heldTest_iff (t := t) (o := o) (byte := b)).1 htest
  obtain ⟨j, hmap, hind⟩ := mem_zip_toList.1 (List.mem_of_find?_eq_some hfind)
  exact ⟨hbyte, j, e, hmap, htrib, hind⟩

theorem heldOutcome_eq_none {t : TribId} {r : Carrier} (h : heldOutcome t r = none) : ¬∃ byte, r.Shows t byte := by
  rintro ⟨byte, hbyte, j, e, hmap, htrib, hind⟩
  unfold heldOutcome at h
  have hnone := List.find?_eq_none.1 (Option.map_eq_none_iff.1 h) (some e, byte) (mem_zip_toList.2 ⟨j, hmap, hind⟩)
  exact hnone (heldTest_iff.2 ⟨⟨e, rfl, htrib⟩, hbyte⟩)

theorem Tributary.alarmIn_iff_placementIn {tr : Tributary} {c : CarrierId} :
    tr.alarmIn c = true ↔ tr.state = .silent ∨ ∃ q, tr.placementIn c = some q ∧ q.restartPending = true := by
  unfold Tributary.alarmIn
  rw [Bool.or_eq_true, decide_eq_true_eq]
  refine or_congr Iff.rfl ?_
  cases tr.placementIn c <;> simp

/-- Settles O29: the application at expiry, and the bytes of the positions that it touched. -/
theorem deadlineAppliesPendingChange : Obligations.DeadlineAppliesPendingChange := by
  intro s ch h hc hdue c m shown
  have hcarrier := s.applyChange_carrier ch .expiry ch.carrier
  rw [if_pos rfl] at hcarrier
  have htrib := s.applyChange_trib ch .expiry ch.trib
  rw [if_pos rfl] at htrib
  have hbyte : ∀ i : Fin 240, ((s.applyChange ch .expiry).carrier c).indications[i] =
      if (s.carrier c).map[i] = m[i] then (s.carrier c).indications[i]
      else if m[i].isSome then expiryIndication ch.kind (((s.applyChange ch .expiry).trib ch.trib).alarmIn c)
        (heldOutcome ch.trib (s.carrier c))
      else .unassigned := fun i => by
    rw [hcarrier, htrib]
    exact expiryIndications_getElem ..
  refine ⟨_, exec_deadlineExpiry hc hdue, State.applyChange_applies h hc .expiry, fun i hi => ?same, fun i hi hnone => ?vacated,
    fun i hi hsome => ?written⟩
  case same => rw [hbyte, if_pos hi.symm]
  case vacated => rw [hbyte, if_neg (Ne.symm hi), hnone]; rfl
  case written =>
    have hwritten := hbyte i
    rw [if_neg (Ne.symm hi), if_pos (Option.isSome_iff_ne_none.2 hsome)] at hwritten
    intro byte
    split
    · next halarm => exact hwritten.trans (if_pos (Tributary.alarmIn_iff_placementIn.2 halarm))
    · next hquiet =>
      have hrest := hwritten.trans (if_neg fun ha => hquiet (Tributary.alarmIn_iff_placementIn.1 ha))
      refine ⟨fun hk => ?_, fun hk hheld => ?_, fun hk hheld => ?_⟩
      · rw [hk] at hrest
        exact hrest
      · rw [hk] at hrest
        cases ho : heldOutcome ch.trib (s.carrier c) with
        | none => exact absurd hheld (heldOutcome_eq_none ho)
        | some b =>
          rw [ho] at hrest
          exact (congrArg ((s.carrier c).Shows ch.trib) hrest).mpr (heldOutcome_eq_some ho)
      · rw [hk] at hrest
        cases ho : heldOutcome ch.trib (s.carrier c) with
        | none =>
          rw [ho] at hrest
          exact hrest
        | some b => exact absurd ⟨b, heldOutcome_eq_some ho⟩ hheld

end Sys2Proof.Machine
end

section
/-! SUPPORT. The steps of a cycle start (R62): the state after steps 1 and 2, the state after step 3, and the evaluations of
step 4. -/

namespace Sys2Proof.Machine

/-! ## Steps 1 to 3 (R17, R62, R63) -/

/-- The state after steps 1 and 2: the page taken and the cycle counted. -/
def State.counted (s : State) (c : CarrierId) (p : BitVec 3) : State := (s.takePage c p).countCycle c

/-- The state after step 3: a pending change of the carrier applied. -/
def State.changedIn (s : State) (c : CarrierId) : State :=
  match s.changeFor c with
  | some ch => s.applyChange ch .cycleStart
  | none => s

theorem State.cycleStart_eq (s : State) (c : CarrierId) (p : BitVec 3) :
    s.cycleStart c p = (((s.counted c p).changedIn c).evaluateAll c).recomputeIndications c (s.counted c p)
      ((s.counted c p).changedIn c) ((s.counted c p).changeFor c) := rfl

theorem State.changedIn_of_none {s : State} {c : CarrierId} (h : ∀ ch, s.change = some ch → ch.carrier ≠ c) :
    s.changedIn c = s := by
  rw [State.changedIn, State.changeFor_eq_none h]

theorem State.changeFor_of_some {s : State} {ch : PendingChange} (h : s.change = some ch) :
    s.changeFor ch.carrier = some ch := by
  rw [State.changeFor, h]
  exact if_pos rfl

theorem State.changedIn_of_some {s : State} {ch : PendingChange} (h : s.change = some ch) :
    s.changedIn ch.carrier = s.applyChange ch .cycleStart := by
  rw [State.changedIn, State.changeFor_of_some h]

/-- Steps 1 and 2 write one carrier's record and report. -/
structure State.Counted (s v : State) (c : CarrierId) (p : BitVec 3) : Prop where
  rest : v = { s with
    carriers := v.carriers, events := v.events, monitor := v.monitor, draws := v.draws, mQueue := v.mQueue }
  carrier : v.carrier c = { s.carrier c with page := some p, cycles := (s.carrier c).cycles + 1 }
  others : SameOtherCarriers s v c

theorem State.counted_spec (s : State) (c : CarrierId) (p : BitVec 3) : s.Counted (s.counted c p) c p := by
  obtain ⟨hchange, htranslation, hresponse, hprocessor, hchannel, houtputs, hpending, -, htributaries, hcarrier, hothers⟩ :=
    s.countCycle_takePage_spec c p
  refine ⟨?_, hcarrier, hothers⟩
  unfold State.counted
  generalize (s.takePage c p).countCycle c = v at *
  cases v
  cases hchange
  cases htranslation
  cases hresponse
  cases hprocessor
  cases hchannel
  cases houtputs
  cases hpending
  cases htributaries
  rfl

section Fields

variable {s v : State} {c : CarrierId} {p : BitVec 3}

theorem State.Counted.change (h : s.Counted v c p) : v.change = s.change := by rw [h.rest]

theorem State.Counted.processor (h : s.Counted v c p) : v.processor = s.processor := by rw [h.rest]

theorem State.Counted.processorSound (h : s.Counted v c p) (hs : s.ProcessorSound) : v.ProcessorSound :=
  hs.congr h.processor (by rw [h.rest]) h.change

theorem State.Counted.trib (h : s.Counted v c p) (x : TribId) : v.trib x = s.trib x := by
  rw [h.rest]
  rfl

end Fields

/-- The reports of steps 1 and 2, in order (R62, R63). -/
theorem State.counted_reports (s : State) (c : CarrierId) (p : BitVec 3) :
    ReportsAs ((match (s.carrier c).page with
      | some q => if p = q + 1 then s else s.raise (.carrierPageJump c q p (p - q - 1))
      | none => s).report ⟨.cycleStarts, 1, some c, none⟩) (s.counted c p) := by
  have hset : ∀ r, SameForReports s (s.setCarrier c r) := fun _ => ⟨rfl, rfl, rfl, rfl, rfl⟩
  have hjumped : SameForReports (match (s.carrier c).page with
      | some q => if p = q + 1 then s else s.raise (.carrierPageJump c q p (p - q - 1))
      | none => s) (s.takePage c p) := by
    unfold State.takePage
    dsimp only
    cases (s.carrier c).page with
    | none => exact hset _
    | some q =>
      dsimp only
      split
      · exact hset _
      · exact State.raise_congr _ (hset _)
  have hcounted := State.report_congr (t := (s.takePage c p).setCarrier c
    { (s.takePage c p).carrier c with cycles := ((s.takePage c p).carrier c).cycles + 1 }) ⟨.cycleStarts, 1, some c, none⟩
    ⟨hjumped.events, hjumped.monitor, hjumped.draws, hjumped.mQueue, hjumped.microseconds⟩
  exact ⟨⟨hcounted.events, hcounted.monitor, hcounted.draws⟩, hcounted.mQueue⟩

/-- Steps 1 to 3 leave the limits (R62). -/
theorem State.changedIn_limits (s : State) (c : CarrierId) (p : BitVec 3) :
    ((s.counted c p).changedIn c).processor.limits = s.processor.limits := by
  rw [← (s.counted_spec c p).processor]
  unfold State.changedIn
  split
  · exact (State.applyChange_keeps ..).limits
  · rfl

/-! ## Step 4 (R62, R74) -/

/-- The placements of a list of tributaries in carrier c evaluated one after another: each record of the list once, and no
other. -/
theorem foldl_evaluate_trib (c : CarrierId) (l : List TribId) (hl : l.Nodup) (s : State) (x : TribId) :
    (x ∉ l → (l.foldl (fun y t => y.evaluate c t) s).trib x = s.trib x) ∧
    ∀ q, x ∈ l → (s.trib x).placementIn c = some q →
      (l.foldl (fun y t => y.evaluate c t) s).trib x =
        (s.trib x).afterEvaluation c (evaluation s.processor.limits (s.trib x) q) := by
  induction l generalizing s with
  | nil => exact ⟨fun _ => rfl, fun _ hx => absurd hx List.not_mem_nil⟩
  | cons t l ih =>
    obtain ⟨hnot, hnodup⟩ := List.nodup_cons.1 hl
    obtain ⟨hkept, hevaluated⟩ := ih hnodup (s.evaluate c t)
    by_cases hxt : x = t
    · subst hxt
      refine ⟨fun hx => absurd List.mem_cons_self hx, fun q _ hq => ?_⟩
      exact (hkept hnot).trans ((State.evaluate_trib_self hq).trans (Tributary.evaluated_eq ..))
    · have hsame := s.evaluate_trib_ne c hxt
      refine ⟨fun hx => (hkept fun hmem => hx (List.mem_cons_of_mem _ hmem)).trans hsame, fun q hx hq => ?_⟩
      have hmem : x ∈ l := (List.mem_cons.1 hx).resolve_left hxt
      have hrest := hevaluated q hmem (by rw [hsame]; exact hq)
      rw [hsame, (s.evaluate_keeps c t).processor] at hrest
      exact hrest

theorem State.evaluateAll_trib (s : State) (c : CarrierId) (x : TribId) :
    ((s.trib x).placementIn c = none → (s.evaluateAll c).trib x = s.trib x) ∧
    ∀ q, (s.trib x).placementIn c = some q →
      (s.evaluateAll c).trib x = (s.trib x).afterEvaluation c (evaluation s.processor.limits (s.trib x) q) := by
  have hdraws : ∀ d, ({ s with draws := d } : State).trib x = s.trib x := fun d => s.withDraws_trib d x
  have hmem : x ∈ s.evaluationOrder c ↔ (s.trib x).placementIn c ≠ none := State.mem_evaluationOrder
  unfold State.evaluateAll
  dsimp only
  have hfold := fun d => foldl_evaluate_trib c (s.evaluationOrder c) (s.evaluationOrder_nodup c) { s with draws := d } x
  refine ⟨fun hx => ((hfold _).1 fun hin => hmem.1 hin hx).trans (hdraws _), fun q hq => ?_⟩
  have hsome : (s.trib x).placementIn c ≠ none := by
    rw [hq]
    exact Option.some_ne_none q
  have hevaluated := (hfold (drawn (s.raisingIn c).length s.draws)).2 q (hmem.2 hsome) (by rw [hdraws]; exact hq)
  rw [hdraws] at hevaluated
  exact hevaluated

theorem State.cycleStart_trib (s : State) (c : CarrierId) (p : BitVec 3) (x : TribId) :
    (s.cycleStart c p).trib x = (((s.counted c p).changedIn c).evaluateAll c).trib x := by
  rw [State.cycleStart_eq, State.recomputeIndications_trib]

/-- Steps 4 and 5 keep all but the tributaries' records, the reports and the indication bytes. -/
theorem State.cycleStart_keepsChanged (s : State) (c : CarrierId) (p : BitVec 3) :
    EvaluationKeeps ((s.counted c p).changedIn c) (s.cycleStart c p) := by
  rw [State.cycleStart_eq]
  exact (State.evaluateAll_keeps ..).trans (State.recomputeIndications_keeps ..)

/-! ## The read that takes the cycle start (R61) -/

theorem State.whenOffered_of_called {s : State} {r : URead} (h : CallsForCycleStart s r) :
    s.whenOffered r = s.cycleStart (windowCarrier r.address) (windowPage r.address) := if_pos h

/-- A read offered with a parent entry FREE leaves the carriers, the change and the command processor as its cycle start left
them. -/
theorem State.present_read_keepsControl {s : State} {r : URead} (hw : s.channel.waiting = [])
    (hfree : ∃ i : Fin 32, (s.parent i).state = .free) : KeepsControl (s.whenOffered r) (s.present (.read r)) := by
  obtain ⟨i, hi⟩ := State.exists_freeParent? hfree
  rw [State.present_read hw, State.offerRead_spec s r false i hi]
  by_cases henough : (s.whenOffered r).subReadsNeeded r ≤ (s.whenOffered r).freeSubs.length
  · rw [if_pos henough]
    have haccept := (s.whenOffered r).acceptRead_keepsControl i r
    exact ⟨haccept.carriers, haccept.change, haccept.processor, haccept.response, haccept.pending⟩
  · rw [if_neg henough]
    have hreport := (report_reported (s.whenOffered r)
      ⟨.acceptWaits, 1, if region r.address = .window then some (windowCarrier r.address) else none, none⟩).keepsControl
    exact ⟨hreport.carriers, hreport.change, hreport.processor, hreport.response, hreport.pending⟩

/-- A read's class and its offer are the same after its own cycle start. -/
theorem State.present_read_whenOffered {s : State} {r : URead} (hw : s.channel.waiting = [])
    (hfree : ∃ i : Fin 32, (s.parent i).state = .free) (hnot : ¬CallsForCycleStart (s.whenOffered r) r) :
    (s.whenOffered r).present (.read r) = s.present (.read r) := by
  obtain ⟨i, hi⟩ := State.exists_freeParent? hfree
  have hkeeps := s.whenOffered_keeps r
  have hi' : (s.whenOffered r).freeParent? = some i := by
    unfold State.freeParent?
    rw [hkeeps.translation]
    exact hi
  have hw' : (s.whenOffered r).channel.waiting = [] := by rw [hkeeps.channel]; exact hw
  rw [State.present_read hw, State.present_read hw', State.offerRead_spec s r false i hi,
    State.offerRead_spec _ r false i hi', State.whenOffered_of_not_called hnot]

/-! ## What a cycle start leaves in the carriers (R19, R62) -/

section Carriers

variable {s : State} {c : CarrierId} {p : BitVec 3}

theorem State.cycleStart_carrier (s : State) (c : CarrierId) (p : BitVec 3) (d : CarrierId) :
    (s.cycleStart c p).carrier d =
      { ((s.counted c p).changedIn c).carrier d with indications := ((s.cycleStart c p).carrier d).indications } :=
  (s.cycleStart_keepsChanged c p).carrier d

theorem State.changedIn_carrier_ne (s : State) {c d : CarrierId} (h : d ≠ c) : (s.changedIn c).carrier d = s.carrier d := by
  unfold State.changedIn
  split
  · next ch hfor =>
    obtain ⟨-, hcarrier⟩ := State.changeFor_eq_some hfor
    rw [State.applyChange_carrier, if_neg (hcarrier ▸ h)]
  · rfl

/-- A cycle start that applies no change leaves the change and the command processor (R17). -/
theorem State.cycleStart_of_no_change (h : ∀ ch, s.change = some ch → ch.carrier ≠ c) :
    (s.counted c p).changedIn c = s.counted c p ∧ (s.cycleStart c p).change = s.change ∧
      (s.cycleStart c p).processor = s.processor ∧
      (s.cycleStart c p).carrier c = { s.carrier c with
        page := some p, cycles := (s.carrier c).cycles + 1, indications := ((s.cycleStart c p).carrier c).indications } := by
  have hcounted := s.counted_spec c p
  have hsame : (s.counted c p).changedIn c = s.counted c p := State.changedIn_of_none (by rw [hcounted.change]; exact h)
  have hkeeps := s.cycleStart_keepsChanged c p
  have hcarrier := s.cycleStart_carrier c p c
  rw [hsame] at hkeeps
  rw [hsame, hcounted.carrier] at hcarrier
  exact ⟨hsame, hkeeps.change.trans hcounted.change, hkeeps.processor.trans hcounted.processor, hcarrier⟩

/-- A cycle start that applies the pending change of its carrier (R17, R19). -/
theorem State.cycleStart_of_change {ch : PendingChange} (hc : s.change = some ch) (hcarrier : ch.carrier = c) :
    (s.counted c p).changedIn c = (s.counted c p).applyChange ch .cycleStart ∧ (s.cycleStart c p).change = none ∧
      (s.cycleStart c p).processor.done = s.processor.done + 1 ∧
      (s.cycleStart c p).carrier c = { s.carrier c with
        page := some p
        cycles := (s.carrier c).cycles + 1
        map := changedMap ch.kind ch.trib ch.positions (s.carrier c).map
        generation := (s.carrier c).generation + 1
        cost := readCost (changedMap ch.kind ch.trib ch.positions (s.carrier c).map)
        mapped := mappedCount (changedMap ch.kind ch.trib ch.positions (s.carrier c).map)
        pendingFlag := false
        indications := ((s.cycleStart c p).carrier c).indications } := by
  subst hcarrier
  have hcounted := s.counted_spec ch.carrier p
  have happlied : (s.counted ch.carrier p).changedIn ch.carrier = (s.counted ch.carrier p).applyChange ch .cycleStart :=
    State.changedIn_of_some (hcounted.change.trans hc)
  have hkeeps := s.cycleStart_keepsChanged ch.carrier p
  have hrecord := s.cycleStart_carrier ch.carrier p ch.carrier
  rw [happlied] at hkeeps
  rw [happlied, State.applyChange_carrier, if_pos rfl, hcounted.carrier] at hrecord
  refine ⟨happlied, hkeeps.change.trans (State.applyChange_change ..), ?_, hrecord⟩
  rw [hkeeps.processor, ← hcounted.processor]
  exact State.completeWith_done ..

end Carriers

/-- Settles O17: the read taken after its cycle start, and the cycle start step by step. -/
theorem newPageFieldTakesCycleStart : Obligations.NewPageFieldTakesCycleStart := by
  intro r s hw hr hwf c p hon hpage hfree
  have hcall : CallsForCycleStart s r := ⟨hr, hwf, hon, hpage⟩
  have hoffered : s.whenOffered r = s.cycleStart c p := State.whenOffered_of_called hcall
  have hcounted := s.counted_spec c p
  have hkeeps := s.cycleStart_keeps c p
  have hpageAfter : ((s.cycleStart c p).carrier c).page = some p ∧
      ((s.cycleStart c p).carrier c).cycles = (s.carrier c).cycles + 1 := by
    by_cases hchange : ∃ ch, s.change = some ch ∧ ch.carrier = c
    · obtain ⟨ch, hc, hcarrier⟩ := hchange
      obtain ⟨-, -, -, hrecord⟩ := State.cycleStart_of_change (p := p) hc hcarrier
      rw [hrecord]
      exact ⟨rfl, rfl⟩
    · obtain ⟨-, -, -, hrecord⟩ := State.cycleStart_of_no_change (s := s) (c := c) (p := p)
        fun ch hc hcarrier => hchange ⟨ch, hc, hcarrier⟩
      rw [hrecord]
      exact ⟨rfl, rfl⟩
  refine ⟨⟨s.present (.read r), rfl, ?taken⟩, ?again, hkeeps.translation, hkeeps.channel, hkeeps.outputs, hkeeps.pending,
    s.counted c p, (s.counted c p).changedIn c, s.counted_reports c p, hcounted.rest, hcounted.carrier, hcounted.others,
    fun h => (State.cycleStart_of_no_change h).1, fun ch hs hc hcarrier => ?applied, fun x => ?records,
    ((s.counted c p).changedIn c).evaluationOrder c,
    drawn (((s.counted c p).changedIn c).raisingIn c).length ((s.counted c p).changedIn c).draws,
    State.evaluationOrder_nodup .., fun x => State.mem_evaluationOrder, ?_⟩
  case taken =>
    have hcontrol := State.present_read_keepsControl (r := r) hw hfree
    rw [hoffered] at hcontrol
    have hsame : ∀ d, (s.present (.read r)).carrier d = (s.cycleStart c p).carrier d := fun d => by
      unfold State.carrier
      rw [hcontrol.carriers]
    rw [hsame, hcontrol.change, hcontrol.processor]
    refine ⟨hpageAfter.1, hpageAfter.2, fun d hd => ?_, fun h => ?_, fun ch hc hcarrier => ?_⟩
    · have hrecord := s.cycleStart_carrier c p d
      rw [State.changedIn_carrier_ne _ hd, hcounted.others d hd] at hrecord
      rw [hsame]
      exact hrecord
    · exact (State.cycleStart_of_no_change h).2
    · exact (State.cycleStart_of_change hc hcarrier).2
  case again =>
    have hnot : ¬CallsForCycleStart (s.whenOffered r) r := by
      rw [hoffered]
      exact fun ⟨_, _, _, hnew⟩ => hnew hpageAfter.1
    have hpresent := State.present_read_whenOffered hw hfree hnot
    rw [hoffered] at hpresent
    exact congrArg Host.Outcome.next hpresent.symm
  case applied =>
    rw [(State.cycleStart_of_change hc hcarrier).1]
    exact State.applyChange_applies (hcounted.processorSound hs) (hcounted.change.trans hc) .cycleStart
  case records =>
    rw [State.cycleStart_trib]
    rw [← s.changedIn_limits c p]
    exact State.evaluateAll_trib _ c x
  rfl

end Sys2Proof.Machine
end

section
/-! SUPPORT. The indication bytes that a cycle start writes (R23, R65, R66, R67, R88). -/

namespace Sys2Proof.Machine

/-! ## Silence in the other carriers (R67) -/

/-- From s to t a carrier's map stays, a SILENT tributary stays SILENT, and exactly the positions of a tributary that became
SILENT changed their byte, to ALARM. -/
structure ShowsSilence (s t : State) (d : CarrierId) : Prop where
  map : (t.carrier d).map = (s.carrier d).map
  stays : ∀ x, (s.trib x).state = .silent → (t.trib x).state = .silent
  unmapped : ∀ i : Fin 240, (s.carrier d).map[i] = none → (t.carrier d).indications[i] = (s.carrier d).indications[i]
  mapped : ∀ (i : Fin 240) (e : MapEntry), (s.carrier d).map[i] = some e → (t.carrier d).indications[i] =
    if (s.trib e.trib).state ≠ .silent ∧ (t.trib e.trib).state = .silent then .alarm else (s.carrier d).indications[i]

theorem ShowsSilence.refl (s : State) (d : CarrierId) : ShowsSilence s s d :=
  ⟨rfl, fun _ h => h, fun _ _ => rfl, fun _ _ _ => (if_neg fun h => h.1 h.2).symm⟩

theorem ShowsSilence.trans {s t u : State} {d : CarrierId} (h : ShowsSilence s t d) (h' : ShowsSilence t u d) :
    ShowsSilence s u d where
  map := h'.map.trans h.map
  stays x hx := h'.stays x (h.stays x hx)
  unmapped i hi := (h'.unmapped i (by rw [h.map]; exact hi)).trans (h.unmapped i hi)
  mapped i e he := by
    rw [h'.mapped i e (by rw [h.map]; exact he), h.mapped i e he]
    by_cases hs : (s.trib e.trib).state = .silent
    · simp [hs, h.stays _ hs]
    · by_cases ht : (t.trib e.trib).state = .silent
      · simp [hs, ht, h'.stays _ ht]
      · simp [hs, ht]

theorem evaluation_of_silent_ne {limits : Limits} {tr : Tributary} {p : Placement} (h : tr.state = .silent) :
    (evaluation limits tr p).outcome ≠ .silenced := by
  cases hf : p.fresh with
  | true =>
    rw [evaluation_of_fresh hf]
    exact nofun
  | false =>
    rw [evaluation_of_silent hf h]
    exact nofun

theorem namesTrib_some (t : TribId) (e : MapEntry) : namesTrib t (some e) = true ↔ e.trib = t := by
  rw [namesTrib_eq_true]
  simp

/-- One evaluation shows the silence that it declares, in every carrier (R67, R79). -/
theorem State.evaluate_showsSilence (s : State) (c : CarrierId) (t : TribId) (d : CarrierId) :
    ShowsSilence s (s.evaluate c t) d := by
  cases hp : (s.trib t).placementIn c with
  | none =>
    rw [State.evaluate_of_none hp]
    exact .refl s d
  | some p =>
    have hcarrier := State.evaluate_carrier_of_some hp d
    have hself : ((s.evaluate c t).trib t).state =
        if (evaluation s.processor.limits (s.trib t) p).outcome = .silenced then .silent else (s.trib t).state := by
      rw [State.evaluate_trib_self hp]
      rfl
    have hmap : ((s.evaluate c t).carrier d).map = (s.carrier d).map := (s.evaluate_keeps c t).map d
    by_cases hout : (evaluation s.processor.limits (s.trib t) p).outcome = .silenced
    · rw [if_pos hout] at hcarrier hself
      have hwas : (s.trib t).state ≠ .silent := fun h => evaluation_of_silent_ne h hout
      have hbyte : ∀ i : Fin 240, ((s.evaluate c t).carrier d).indications[i] =
          if namesTrib t (s.carrier d).map[i] then .alarm else (s.carrier d).indications[i] := fun i => by
        rw [hcarrier, alarmPositions_getElem]
      refine ⟨hmap, fun x hx => ?_, fun i hi => ?_, fun i e he => ?_⟩
      · by_cases hxt : x = t
        · rw [hxt, hself]
        · rw [s.evaluate_trib_ne c hxt]; exact hx
      · rw [hbyte, hi]; rfl
      · rw [hbyte, he]
        by_cases hxt : e.trib = t
        · rw [hxt, if_pos (namesTrib_eq_true.2 ⟨e, rfl, hxt⟩), if_pos ⟨hwas, hself⟩]
        · rw [s.evaluate_trib_ne c hxt, if_neg fun hn => hxt ((namesTrib_some t e).1 hn), if_neg fun h => h.1 h.2]
    · rw [if_neg hout] at hcarrier hself
      have hstate : ∀ x, ((s.evaluate c t).trib x).state = (s.trib x).state := fun x => by
        by_cases hxt : x = t
        · rw [hxt, hself]
        · rw [s.evaluate_trib_ne c hxt]
      refine ⟨hmap, fun x hx => (hstate x).trans hx, fun i _ => by rw [hcarrier], fun i e _ => ?_⟩
      rw [hcarrier, hstate, if_neg fun h => h.1 h.2]

theorem foldl_evaluate_showsSilence (c : CarrierId) (l : List TribId) (s : State) (d : CarrierId) :
    ShowsSilence s (l.foldl (fun y t => y.evaluate c t) s) d := by
  induction l generalizing s with
  | nil => exact .refl s d
  | cons t l ih => exact (s.evaluate_showsSilence c t d).trans (ih _)

theorem State.evaluateAll_showsSilence (s : State) (c d : CarrierId) : ShowsSilence s (s.evaluateAll c) d := by
  unfold State.evaluateAll
  dsimp only
  have hdraws : ∀ n, ShowsSilence s { s with draws := n } d := fun n =>
    ⟨rfl, fun x h => (congrArg Tributary.state (s.withDraws_trib n x)).trans h, fun _ _ => rfl,
      fun _ e _ => (if_neg fun h => h.1 ((congrArg Tributary.state (s.withDraws_trib n e.trib)).symm.trans h.2)).symm⟩
  exact (hdraws _).trans (foldl_evaluate_showsSilence c _ _ d)

/-! ## The bytes of the carrier itself (R65, R66) -/

/-- The byte of a mapped position that is not under ALARM and whose placement takes no slip and no restart (R65). -/
theorem stepFiveIndication_of_other {o : Outcome} (hrep : o ≠ .repeated) (hskip : o ≠ .skipped) (hres : o ≠ .restart)
    (a : Option Indication) : stepFiveIndication false (some o) a = a.getD .normal := by
  cases o with
  | repeated => exact absurd rfl hrep
  | skipped => exact absurd rfl hskip
  | restart => exact absurd rfl hres
  | _ => rfl

/-- FRESH or MOVED of a change whose tributary the entry names (R23). -/
theorem appliedIndication_of_named {ch : PendingChange} {e : MapEntry} (h : ch.trib = e.trib) (before : Option MapEntry) :
    appliedIndication (some ch) before (some e) = match ch.kind with
      | .place => some .fresh
      | .regroom => if before = some e then none else some .moved
      | .unplace => none := by
  unfold appliedIndication
  exact if_pos ((namesTrib_some ch.trib e).2 h.symm)

theorem appliedIndication_of_other {q : Option PendingChange} {e : MapEntry} (h : ∀ ch, q = some ch → ch.trib ≠ e.trib)
    (before : Option MapEntry) : appliedIndication q before (some e) = none := by
  cases q with
  | none => rfl
  | some ch =>
    unfold appliedIndication
    exact if_neg fun hnames => h ch rfl ((namesTrib_some ch.trib e).1 hnames).symm

/-- The records as step 3 leaves them. -/
def State.recordBefore (s : State) (c : CarrierId) (x : TribId) : Tributary :=
  match s.change with
  | some ch => if ch.carrier = c ∧ ch.trib = x then (s.trib x).applied ch.kind c .cycleStart else s.trib x
  | none => s.trib x

theorem State.changedIn_trib (s : State) (c : CarrierId) (p : BitVec 3) (x : TribId) :
    ((s.counted c p).changedIn c).trib x = s.recordBefore c x := by
  have hcounted := s.counted_spec c p
  unfold State.recordBefore
  split
  · next ch hc =>
    by_cases hcarrier : ch.carrier = c
    · rw [(State.cycleStart_of_change hc hcarrier).1, State.applyChange_trib, hcounted.trib, hcounted.trib, hcarrier]
      by_cases hx : x = ch.trib
      · rw [if_pos hx, if_pos ⟨rfl, hx.symm⟩, hx]
      · rw [if_neg hx, if_neg fun h => hx h.2.symm]
    · rw [if_neg fun h => hcarrier h.1, State.changedIn_of_none, hcounted.trib]
      intro ch' hc'
      rw [hcounted.change, hc] at hc'
      cases hc'
      exact hcarrier
  · next hc =>
    rw [State.changedIn_of_none, hcounted.trib]
    intro ch' hc'
    rw [hcounted.change, hc] at hc'
    cases hc'

/-- The byte that step 5 writes at a position, from the state after the cycle start and the records before step 4. -/
theorem State.cycleStart_getElem (s : State) (c : CarrierId) (p : BitVec 3) (i : Fin 240) :
    (((s.cycleStart c p).carrier c).map[i] = none → ((s.cycleStart c p).carrier c).indications[i] = .unassigned) ∧
    ∀ e, ((s.cycleStart c p).carrier c).map[i] = some e → ((s.cycleStart c p).carrier c).indications[i] =
      stepFiveIndication (((s.cycleStart c p).trib e.trib).alarmIn c)
        ((((s.counted c p).changedIn c).evaluationOf c e.trib).map (·.outcome))
        (appliedIndication (s.changeFor c) (s.carrier c).map[i] (some e)) := by
  have hcounted := s.counted_spec c p
  have hmap : ((s.counted c p).carrier c).map = (s.carrier c).map := by rw [hcounted.carrier]
  have hfor : (s.counted c p).changeFor c = s.changeFor c := by
    unfold State.changeFor
    rw [hcounted.change]
  have hafter : ((((s.counted c p).changedIn c).evaluateAll c).carrier c).map = ((s.cycleStart c p).carrier c).map := by
    rw [State.cycleStart_eq]
    exact ((State.recomputeIndications_keeps ..).map c).symm
  rw [← hafter, State.cycleStart_eq, State.recomputeIndications_getElem, hmap, hfor]
  refine ⟨fun hnone => by rw [hnone], fun e he => ?_⟩
  rw [he, State.recomputeIndications_trib]

/-- Step 5 in another carrier: ALARM where step 4 declared silence, and nothing else (R67). -/
theorem State.cycleStart_getElem_ne (s : State) {c d : CarrierId} (hd : d ≠ c) (p : BitVec 3) (i : Fin 240) :
    ((s.cycleStart c p).carrier d).indications[i] = match (s.carrier d).map[i] with
      | some e => if (s.recordBefore c e.trib).state ≠ .silent ∧ ((s.cycleStart c p).trib e.trib).state = .silent then .alarm
        else (s.carrier d).indications[i]
      | none => (s.carrier d).indications[i] := by
  have hbefore : ((s.counted c p).changedIn c).carrier d = s.carrier d :=
    (State.changedIn_carrier_ne _ hd).trans ((s.counted_spec c p).others d hd)
  have hafter : (s.cycleStart c p).carrier d = (((s.counted c p).changedIn c).evaluateAll c).carrier d := by
    rw [State.cycleStart_eq, State.recomputeIndications_carrier _ _ _ _ _ _ hd]
  have hshows := ((s.counted c p).changedIn c).evaluateAll_showsSilence c d
  rw [hafter]
  split
  · next e he =>
    rw [hshows.mapped i e (by rw [hbefore]; exact he), hbefore, State.changedIn_trib, State.cycleStart_trib]
  · next hnone =>
    rw [hshows.unmapped i (by rw [hbefore]; exact hnone), hbefore]

/-- Within the records that step 4 finds, a placement of the carrier is the one that the evaluation takes. -/
theorem State.evaluationOf_of_mem {s : State} {c : CarrierId} {p : BitVec 3} {x : TribId} {q : Placement}
    (hn : ((s.recordBefore c x).placements.map (·.carrier)).Nodup) (hq : q ∈ (s.recordBefore c x).placements)
    (hc : q.carrier = c) : ((s.counted c p).changedIn c).evaluationOf c x =
      some (evaluation s.processor.limits (s.recordBefore c x) q) := by
  have hplaced := Tributary.placementIn_eq_some hn hq hc
  rw [← State.changedIn_trib (p := p)] at hplaced
  rw [State.evaluationOf_eq_some hplaced, s.changedIn_limits, State.changedIn_trib]

/-- The tributary's alarm after step 4, read off its record (R66). -/
theorem State.cycleStart_alarmIn_iff {s : State} {c : CarrierId} {p : BitVec 3} {x : TribId}
    (hn : ((s.recordBefore c x).placements.map (·.carrier)).Nodup) :
    ((s.cycleStart c p).trib x).alarmIn c = true ↔ ((s.cycleStart c p).trib x).state = .silent ∨
      ∃ q ∈ ((s.cycleStart c p).trib x).placements, q.carrier = c ∧ q.restartPending = true := by
  refine Tributary.alarmIn_iff ?_ c
  rw [(s.cycleStart_keepsChanged c p).carriers, State.changedIn_trib]
  exact hn

/-- The applied indication of a change of this carrier, in the terms of R23. -/
theorem appliedIndication_changeFor {s : State} {c : CarrierId} {e : MapEntry} (old : Option MapEntry) :
    (∀ ch, s.change = some ch → ch.carrier = c → ch.trib = e.trib →
      (ch.kind = .place → appliedIndication (s.changeFor c) old (some e) = some .fresh) ∧
      (ch.kind = .regroom → old ≠ some e → appliedIndication (s.changeFor c) old (some e) = some .moved) ∧
      (ch.kind = .regroom → old = some e → appliedIndication (s.changeFor c) old (some e) = none)) ∧
    ((∀ ch, s.change = some ch → ch.carrier = c → ch.trib ≠ e.trib) →
      appliedIndication (s.changeFor c) old (some e) = none) := by
  refine ⟨fun ch hc hcarrier htrib => ?_, fun hother => appliedIndication_of_other (fun ch hfor => ?_) old⟩
  · subst hcarrier
    rw [State.changeFor_of_some hc, appliedIndication_of_named htrib]
    refine ⟨fun hk => by rw [hk], fun hk hne => ?_, fun hk heq => ?_⟩
    · rw [hk]
      exact if_neg hne
    · rw [hk]
      exact if_pos heq
  · obtain ⟨hc, hcarrier⟩ := State.changeFor_eq_some hfor
    exact hother ch hc hcarrier

/-- Settles O18: step 5 in the carrier, by the precedence of R65, and ALARM in the others. -/
theorem cycleStartWritesIndications : Obligations.CycleStartWritesIndications := by
  intro s c p
  have hbytes := s.cycleStart_getElem c p
  have hothers := fun (d : CarrierId) (hd : d ≠ c) => s.cycleStart_getElem_ne hd p
  have halarms := fun x => State.cycleStart_alarmIn_iff (s := s) (c := c) (p := p) (x := x)
  generalize s.cycleStart c p = u at *
  intro before t hnodup
  refine ⟨fun i => ?own, fun d hd i => hothers d hd i⟩
  obtain ⟨hunmapped, hmapped⟩ := hbytes i
  split
  · next hnone => exact hunmapped hnone
  · next e he =>
    have hbyte := hmapped e he
    have halarm := halarms e.trib (hnodup e.trib)
    split
    · next hsilent =>
      rw [halarm.2 hsilent] at hbyte
      exact hbyte
    · next hquiet =>
      intro q hq hcarrier byte outcome
      rw [Bool.eq_false_iff.2 fun h => hquiet (halarm.1 h), State.evaluationOf_of_mem (hnodup e.trib) hq hcarrier] at hbyte
      obtain ⟨hchange, hother⟩ := appliedIndication_changeFor (s := s) (c := c) (e := e) (s.carrier c).map[i]
      have hstep : ∀ o, outcome = o → byte = stepFiveIndication false (some o)
          (appliedIndication (s.changeFor c) (s.carrier c).map[i] (some e)) := fun o ho => ho ▸ hbyte
      refine ⟨hstep .repeated, hstep .skipped, hstep .restart, fun hrep hskip hres => ?_⟩
      have hquietByte := (hstep _ rfl).trans (stepFiveIndication_of_other hrep hskip hres _)
      refine ⟨fun ch hc hin hnames => ?_, fun h => ?_⟩
      · obtain ⟨hplace, hmoved, hkept⟩ := hchange ch hc hin hnames
        refine ⟨fun hk => ?_, fun hk hne => ?_, fun hk heq => ?_⟩
        · rw [hplace hk] at hquietByte
          exact hquietByte
        · rw [hmoved hk hne] at hquietByte
          exact hquietByte
        · rw [hkept hk heq] at hquietByte
          exact hquietByte
      · rw [hother h] at hquietByte
        exact hquietByte

end Sys2Proof.Machine
end

section
/-! SUPPORT. TRANSLATED reads (R100 to R103): the words of fill, the occurrences of fill, and the M-side reads of the pieces with
the occurrences between them. -/

namespace Sys2Proof.Machine

/-! ## The kinds of fill (R100, R103) -/

theorem mem_filterMap_alarmTrib? {kinds : List WordKind} {v : TribId} :
    v ∈ kinds.filterMap WordKind.alarmTrib? ↔ .alarm v ∈ kinds := by
  rw [List.mem_filterMap]
  constructor
  · rintro ⟨kind, hmem, hkind⟩
    cases kind <;> cases hkind
    exact hmem
  · exact fun hmem => ⟨_, hmem, rfl⟩

theorem isEmpty_alarms_iff {kinds : List WordKind} :
    (kinds.filterMap WordKind.alarmTrib?).isEmpty = true ↔ ¬∃ v, .alarm v ∈ kinds := by
  rw [List.isEmpty_iff, List.eq_nil_iff_forall_not_mem, not_exists]
  simp only [mem_filterMap_alarmTrib?]

theorem count_alarmTrib? (kinds : List WordKind) (v : TribId) :
    (kinds.filterMap WordKind.alarmTrib?).count v = kinds.countP fun kind => kind == .alarm v := by
  induction kinds with
  | nil => rfl
  | cons kind kinds ih =>
    cases kind with
    | unassigned => rw [List.countP_cons_of_neg (by simp)]; exact ih
    | read t slot page => rw [List.countP_cons_of_neg (by simp)]; exact ih
    | alarm t =>
      have hcons : (.alarm t :: kinds).filterMap WordKind.alarmTrib? = t :: kinds.filterMap WordKind.alarmTrib? := rfl
      rw [hcons, List.count_cons, List.countP_cons, ih]
      simp

theorem nodup_eraseDups {α : Type} [DecidableEq α] : ∀ l : List α, l.eraseDups.Nodup
  | [] => by
    rw [List.eraseDups_nil]
    exact List.nodup_nil
  | a :: l => by
    rw [List.eraseDups_cons, List.nodup_cons, List.mem_eraseDups]
    exact ⟨by simp, nodup_eraseDups _⟩
termination_by l => l.length
decreasing_by exact Nat.lt_succ_of_le (List.length_filter_le _ l)

theorem alarmTribs_nodup (draws : Nat) (kinds : List WordKind) : (alarmTribs draws kinds).Nodup :=
  (orderByKey_perm _ _).nodup_iff.2 (nodup_eraseDups _)

theorem mem_alarmTribs {draws : Nat} {kinds : List WordKind} {v : TribId} : v ∈ alarmTribs draws kinds ↔ .alarm v ∈ kinds := by
  unfold alarmTribs
  rw [(orderByKey_perm _ _).mem_iff, List.mem_eraseDups, mem_filterMap_alarmTrib?]

/-- The occurrences of fill as R103 tells them. -/
theorem fillOccurrences_eq (draws : Nat) (c : CarrierId) (kinds : List WordKind) :
    fillOccurrences draws c kinds =
      (alarmTribs draws kinds).map (fun v => ⟨.fillWordsAlarm, kinds.countP fun kind => kind == .alarm v, some c, some v⟩) ++
        if .unassigned ∈ kinds then [⟨.fillWordsUnassigned, kinds.countP fun kind => kind == .unassigned, some c, none⟩]
        else [] := by
  unfold fillOccurrences
  simp only [count_alarmTrib?]
  by_cases h : WordKind.unassigned ∈ kinds
  · rw [if_pos h, if_neg fun h0 => List.count_eq_zero.1 h0 h]
    rfl
  · rw [if_neg h, if_pos (List.count_eq_zero.2 h)]

/-! ## The pieces of a read (R96, R101, R102) -/

theorem foldl_report_congr (os : List Occurrence) {s t : State} (h : SameForReports s t) :
    SameForReports (os.foldl State.report s) (os.foldl State.report t) := by
  induction os generalizing s t with
  | nil => exact h
  | cons o os ih => exact ih (State.report_congr o h)

/-- One piece: the lowest FREE entry taken, its M-side read appended, the in-flight count raised, and SUB-READS (R102). -/
theorem State.issuePiece_eq {s : State} {k : Fin 64} {rest : List (Fin 64)} (hf : s.freeSubs = k :: rest) (i : Fin 32)
    (c : CarrierId) (p : Piece) : s.issuePiece i c p =
      (State.setTrib ((s.setSub k (s.pieceEntry i c p k)).enqueue [s.pieceRead (p, k)]) p.trib
        { s.trib p.trib with inFlight := (s.trib p.trib).inFlight + 1 }).report ⟨.subReads, 1, some c, some p.trib⟩ := by
  have hlowest : lowest? (fun e : SubRead => e.state = .free) s.translation.subReads = some k := by
    unfold lowest?
    rw [← List.head?_filter]
    change s.freeSubs.head? = _
    rw [hf, List.head?_cons]
  have hallocate : s.allocate i p.first p.length (some p.trib) (some c) (slotAddress p.trib p.page p.slot) .own =
      (s.setSub k (s.pieceEntry i c p k)).enqueue [s.pieceRead (p, k)] := by
    unfold State.allocate
    rw [hlowest]
    rfl
  unfold State.issuePiece
  rw [hallocate]
  rfl

/-- The reads of the pieces and their SUB-READS occurrences, seen from the event writer, the monitor and the queue. -/
theorem foldl_issuePiece_reports (tagOf : Fin 64 → BitVec 16) (i : Fin 32) (c : CarrierId) (ps : List Piece) :
    ∀ s x : State, SameForReports x s → ps.length ≤ s.freeSubs.length →
      (∀ k ∈ s.freeSubs, tagOf k = mTag k.val ((s.sub k).generation + 1) false s.response.epoch) →
      SameForReports ((List.zip ps s.freeSubs).foldl (fun x pk =>
        (x.enqueue [.read .own (tagOf pk.2)
          (BitVec.ofNat 32 (pk.1.trib.val * 0x2000 + pk.1.page.toNat * 0x400 + pk.1.slot * 0x10))
          (BitVec.ofNat 8 pk.1.length)]).report ⟨.subReads, 1, some c, some pk.1.trib⟩) x)
        (ps.foldl (fun s p => s.issuePiece i c p) s) := by
  induction ps with
  | nil => exact fun s x h _ _ => h
  | cons p ps ih =>
    intro s x h hlen htag
    obtain ⟨k, rest, hk⟩ : ∃ k rest, s.freeSubs = k :: rest :=
      List.exists_cons_of_ne_nil fun hnil => by rw [hnil] at hlen; exact absurd hlen (Nat.not_succ_le_zero _)
    obtain ⟨hrest, -, hothers, -, -, -, hresponse, -⟩ := s.issuePiece_spec i c p k rest hk
    have hnodup : s.freeSubs.Nodup := (List.nodup_finRange 64).filter _
    rw [hk, List.nodup_cons] at hnodup
    have hstep : SameForReports ((x.enqueue [.read .own (tagOf k)
        (BitVec.ofNat 32 (p.trib.val * 0x2000 + p.page.toNat * 0x400 + p.slot * 0x10))
        (BitVec.ofNat 8 p.length)]).report ⟨.subReads, 1, some c, some p.trib⟩) (s.issuePiece i c p) := by
      rw [State.issuePiece_eq hk, htag k (hk ▸ List.mem_cons_self)]
      exact State.report_congr _ ⟨h.events, h.monitor, h.draws, congrArg (· ++ [s.pieceRead (p, k)]) h.mQueue, h.microseconds⟩
    have hnext := ih (s.issuePiece i c p) _ hstep (by rw [hrest]; rw [hk] at hlen; exact Nat.le_of_succ_le_succ hlen)
      fun l hl => by
        rw [hrest] at hl
        rw [hothers l fun hlk => hnodup.1 (hlk ▸ hl), hresponse]
        exact htag l (hk ▸ List.mem_cons_of_mem k hl)
    rw [hrest] at hnext
    rw [hk]
    exact hnext

/-! ## The acceptance (R98, R100) -/

/-- The state of a TRANSLATED read after its fill occurrences: the parent taken and the draws for their order (R103). -/
def State.filled (s : State) (i : Fin 32) (r : URead) (status : Status) : State :=
  let c := windowCarrier r.address
  let kinds := s.wordKinds r
  (⟨.carrierReads, 1, some c, none⟩ :: fillOccurrences s.draws c kinds).foldl State.report
    { s.openParent i r .translated (some c) (kinds.map s.fillOf) status (cutPieces 0 kinds).length with
      draws := drawn (alarmTribs s.draws kinds).length s.draws }

theorem State.acceptTranslated_eq (s : State) (i : Fin 32) (r : URead) :
    s.acceptTranslated i r = (cutPieces 0 (s.wordKinds r)).foldl (fun w p => w.issuePiece i (windowCarrier r.address) p)
      (s.filled i r (if ((s.wordKinds r).filterMap WordKind.alarmTrib?).isEmpty then .ok else .alarm)) := rfl

theorem State.filled_reported (s : State) (i : Fin 32) (r : URead) (status : Status) :
    Reported { s.openParent i r .translated (some (windowCarrier r.address)) ((s.wordKinds r).map s.fillOf) status
      (cutPieces 0 (s.wordKinds r)).length with draws := drawn (alarmTribs s.draws (s.wordKinds r)).length s.draws }
      (s.filled i r status) := foldl_report_reported _ _

section Filled

variable (s : State) (i : Fin 32) (r : URead) (status : Status)

theorem State.filled_subReads : (s.filled i r status).translation.subReads = s.translation.subReads :=
  (s.filled_reported i r status).subReads

theorem State.filled_sub (k : Fin 64) : (s.filled i r status).sub k = s.sub k := by
  unfold State.sub
  rw [State.filled_subReads]

theorem State.filled_freeSubs : (s.filled i r status).freeSubs = s.freeSubs :=
  State.freeSubs_congr (s.filled_subReads i r status)

theorem State.filled_trib (x : TribId) : (s.filled i r status).trib x = s.trib x := by
  unfold State.trib
  rw [(s.filled_reported i r status).tributaries]
  rfl

theorem State.filled_forwardedWrites : (s.filled i r status).forwardedWrites = s.forwardedWrites :=
  (s.filled_reported i r status).forwardedWrites

theorem State.filled_keepsControl : KeepsControl s (s.filled i r status) :=
  have hrep := (s.filled_reported i r status).keepsControl
  ⟨hrep.carriers, hrep.change, hrep.processor, hrep.response, hrep.pending⟩

theorem State.filled_opened :
    KeepsQueues (s.openParent i r .translated (some (windowCarrier r.address)) ((s.wordKinds r).map s.fillOf) status
      (cutPieces 0 (s.wordKinds r)).length) (s.filled i r status) ∧
    KeepsControl (s.openParent i r .translated (some (windowCarrier r.address)) ((s.wordKinds r).map s.fillOf) status
      (cutPieces 0 (s.wordKinds r)).length) (s.filled i r status) :=
  have hrep := s.filled_reported i r status
  ⟨.of_translation hrep.translation, hrep.keepsControl.carriers, hrep.keepsControl.change, hrep.keepsControl.processor,
    hrep.keepsControl.response, hrep.keepsControl.pending⟩

/-- CARRIER-READS and the fill occurrences, seen from the event writer, the monitor and the queue (R102, R103). -/
theorem State.filled_reports :
    SameForReports ((⟨.carrierReads, 1, some (windowCarrier r.address), none⟩ ::
      fillOccurrences s.draws (windowCarrier r.address) (s.wordKinds r)).foldl State.report
        { s with draws := drawn (alarmTribs s.draws (s.wordKinds r)).length s.draws }) (s.filled i r status) := by
  refine foldl_report_congr _ ?_
  have hopen := s.openParent_sameForReports i r .translated (some (windowCarrier r.address)) ((s.wordKinds r).map s.fillOf)
    status (cutPieces 0 (s.wordKinds r)).length
  exact ⟨hopen.events, hopen.monitor, rfl, hopen.mQueue, hopen.microseconds⟩

end Filled

/-- Settles O15: the cut after any cycle start, the entries and reads piece by piece, and the reports in order. -/
theorem translatedReadCut : Obligations.TranslatedReadCut := by
  intro r s i hw hl hr hwf hp c hon hi hi' u kinds pieces free address tagOf hlen
  have hkeeps := s.whenOffered_keeps r
  have hneeded : u.subReadsNeeded r = pieces.length := by
    rw [State.subReadsNeeded_eq, if_neg (not_not.2 hr), if_pos ⟨hwf, hp, by rw [State.whenOffered_carrier_on]; exact hon⟩]
  have hpresent := State.present_read_taken (r := r) hw hi hi' (by rw [hneeded]; exact hlen)
  have hclass : u.classOf r = .translated := by
    rw [State.classOf_of_payload hr hwf hp, State.whenOffered_carrier_on, if_pos hon]
  rw [State.acceptRead_of_class, hclass] at hpresent
  dsimp only at hpresent
  rw [State.acceptTranslated_eq] at hpresent
  generalize hstatus : (if ((u.wordKinds r).filterMap WordKind.alarmTrib?).isEmpty then Status.ok else .alarm) = status
    at hpresent
  have hcontrol := u.filled_keepsControl i r status
  obtain ⟨hfilledQueues, hfilledControl⟩ := u.filled_opened i r status
  obtain ⟨hentries, hothers, htribs, -, hwrites, -, -, -, -, houtputs, -⟩ := State.issuePieces_spec pieces i c
    (u.filled i r status) (by rw [State.filled_freeSubs]; exact hlen)
  have hreports := foldl_issuePiece_reports tagOf i c pieces (u.filled i r status) _ (u.filled_reports i r status)
    (by rw [State.filled_freeSubs]; exact hlen) fun k _ => by
      rw [State.filled_sub, hcontrol.response, hkeeps.epoch]
      unfold State.sub
      rw [hkeeps.translation]
      rfl
  have hui : (u.parent i).state = .free := by
    unfold State.parent
    rw [hkeeps.translation]
    exact hi
  obtain ⟨hparent, haccepts⟩ := State.accepts_of_opened (s := u) (hkeeps.translation ▸ hl) hui
    (hfilledQueues.trans (foldl_issuePiece_keepsQueues i c pieces _))
    (hfilledControl.trans (foldl_issuePiece_keepsControl i c pieces _))
    (houtputs.trans (u.filled_reported i r status).outputs)
  have hsub : ∀ k, (u.filled i r status).sub k = s.sub k := fun k => by
    rw [State.filled_sub]
    unfold State.sub
    rw [hkeeps.translation]
  simp only [State.filled_freeSubs] at hentries hothers hreports
  refine ⟨_, congrArg Host.Outcome.next hpresent, hparent.trans ?entry, fun n hn hf => (hentries n hn hf).trans ?sub,
    fun k hk => (hothers k hk).trans (hsub k), hkeeps.translation, fun v => (htribs v).trans ?trib,
    (hwrites.trans (u.filled_forwardedWrites i r status)).trans hkeeps.forwardedWrites, haccepts, alarmTribs u.draws kinds,
    drawn (alarmTribs u.draws kinds).length u.draws, alarmTribs_nodup .., fun v => mem_alarmTribs, ?reports⟩
  case entry =>
    have hfill : ∀ kind ∈ kinds, u.fillOf kind = (match kind with
        | .unassigned => some (wordOfBytes (List.replicate 16 s.processor.limits.unassignedFill))
        | .alarm v => some (wordOfBytes (List.replicate 16 (s.trib v).fill))
        | .read _ _ _ => none) := fun kind _ => by
      cases kind with
      | unassigned => exact congrArg (fun l : Limits => some (fillWord l.unassignedFill)) hkeeps.limits
      | alarm v => exact congrArg (fun b => some (fillWord b)) (hkeeps.trib v).fill
      | read _ _ _ => rfl
    have hshown : status = if ∃ v, .alarm v ∈ kinds then .alarm else .ok := by
      rw [← hstatus]
      by_cases h : ∃ v, .alarm v ∈ kinds
      · rw [if_pos h, if_neg fun hempty => isEmpty_alarms_iff.1 hempty h]
      · rw [if_neg h, if_pos (isEmpty_alarms_iff.2 h)]
    have hstate : (if pieces.length = 0 then ParentState.complete else .opened) =
        if pieces = [] then .complete else .opened := by
      simp only [List.length_eq_zero_iff]
    rw [List.map_congr_left hfill, hshown]
    unfold parentEntry
    rw [hstate] <;> rfl
  case sub =>
    unfold State.pieceEntry
    rw [hsub, hcontrol.response, hcontrol.processor, hkeeps.limits, hkeeps.microseconds]
  case trib => rw [State.filled_trib]
  case reports =>
    rw [← fillOccurrences_eq]
    exact .of_same hreports _

end Sys2Proof.Machine
end
